-- ==== Sys2Proof/Word.lean ====
section
/-! DEFINITION. The word types of the block: the octet, the 48-octet byte file and the 64-bit register value.
The block has registers of 8, 16 and 64 bits (R22) and octet arrays of 48 entries (R23, R28); nothing else is a word. -/

namespace Sys2Proof

/-- One octet (R11). Bits are numbered LSB-0 (R10). -/
abbrev Byte := BitVec 8

/-- A file of 48 octets, octet 0 first: REQ0 … REQ47 (R23), RESP0 … RESP47 (R28), L.req (R31), a packet (R71). -/
abbrev ByteFile := Vector Byte 48

/-- A 64-bit NtpTimestamp value: seconds in bits [63:32], fraction in bits [31:0] (R25, R76). -/
abbrev NtpTimestamp := BitVec 64

/-- The container of a HOST access's value: as wide as the widest register (R34, R54). -/
abbrev AccessValue := BitVec 64

/-- The byte file with every octet 0x00 (R22, R160, R173). -/
def ByteFile.zeros : ByteFile := Vector.replicate 48 0x00

end Sys2Proof
end

