-- ==== Sys2Proof/Config.lean ====
section
/-! DEFINITION. What the spec leaves to a platform: its OPEN parameters (R9, 92 D4, D27).
N_INST is a value of `NInst`, an argument of Machine/Platform.lean's `Platform`; BUS_BINDING is the uninterpreted constant below.
The parameters the source settles (R8) are no configuration: they stand in Machine/Params.lean. -/

namespace Sys2Proof

/-- N_INST, the number of independent instances: "OPEN parameter, N_INST ≥ 1" (R9, R187, 92 D27). -/
abbrev NInst := { n : Nat // 1 ≤ n }

/-- BUS_BINDING (R22, R58, 92 D4): which register number a platform's bus address reaches.
The spec leaves it OPEN, so it has no body: a claim holds for every binding.
How a 64-bit register is split into bus beats (R53) is part of the same parameter and is left out (log entry 10). -/
opaque Config.busBinding : Nat → Nat

end Sys2Proof
end

