-- ==== Sys2Proof/Syntax.lean ====
section
/-! DEFINITION. The commands of the block, one constructor per row of spec/opcode_table.json (R37, R70).
A command word carries no operand: every command reads fixed operand registers (R33), so no constructor has a field. -/

namespace Sys2Proof

/-- SNTP-VM command set, spec edition 1 (R3, R37). -/
inductive Instr where
  /-- VB, command word 0x00: validate-and-build (R160). -/
  | vb
  /-- VAL, command word 0x01: validate (R110). -/
  | val
  /-- BLD, command word 0x02: build from NOW_NTP (R150). -/
  | bld
  /-- CONV, command word 0x03: convert the clock sample (R130). -/
  | conv
  deriving DecidableEq, Repr

end Sys2Proof
end

