-- ==== Sys2Proof/Machine/Registers.lean ====
section
/-! DEFINITION. The register map of R22: the registers by name, their numbers, widths and access rights.
It is the block's only address map (R58). -/

namespace Sys2Proof.Machine

/-- The registers of R22, and no others. -/
inductive Reg where
  /-- REQn, request octet n (R23). -/
  | req (n : Fin 48)
  /-- REQ_LEN (R24). -/
  | reqLen
  /-- NOW_NTP (R25). -/
  | nowNtp
  /-- CMD: no storage, a write issues a command (R36). -/
  | cmd
  /-- RESPn, response octet n (R28). -/
  | resp (n : Fin 48)
  /-- RESP_LEN (R29). -/
  | respLen
  /-- STATUS (R26). -/
  | status
  /-- TS (R30). -/
  | ts
  deriving DecidableEq, Repr

/-- A register's access rights, the "access" column of R22. -/
inductive Access where
  /-- RW: HOST may read and write. -/
  | readWrite
  /-- RO: HOST may only read; a write has no effect and raises no fault. -/
  | readOnly
  /-- WO: HOST may only write; a read returns 0x00. -/
  | writeOnly
  deriving DecidableEq, Repr

/-- The register's number, the "No." column of R22. -/
def regNumber : Reg → Nat
  | .req n => n.val
  | .reqLen => 0x30
  | .nowNtp => 0x31
  | .cmd => 0x32
  | .resp n => 0x40 + n.val
  | .respLen => 0x70
  | .status => 0x71
  | .ts => 0x72

/-- The register a number names; none for an unassigned number: 0x33–0x3F, 0x73–0xFF "and any other number" (R22). -/
def regOfNumber (no : Nat) : Option Reg :=
  if h : no < 48 then some (.req ⟨no, h⟩)
  else if no = 0x30 then some .reqLen
  else if no = 0x31 then some .nowNtp
  else if no = 0x32 then some .cmd
  else if h : 0x40 ≤ no ∧ no < 0x70 then some (.resp ⟨no - 0x40, by omega⟩)
  else if no = 0x70 then some .respLen
  else if no = 0x71 then some .status
  else if no = 0x72 then some .ts
  else none

/-- The register's width in bits, the "width" column of R22 (R54). -/
def regWidth : Reg → Nat
  | .req _ => 8
  | .reqLen => 16
  | .nowNtp => 64
  | .cmd => 8
  | .resp _ => 8
  | .respLen => 8
  | .status => 8
  | .ts => 64

/-- The register's access rights (R22). -/
def regAccess : Reg → Access
  | .req _ => .readWrite
  | .reqLen => .readWrite
  | .nowNtp => .readWrite
  | .cmd => .writeOnly
  | .resp _ => .readOnly
  | .respLen => .readOnly
  | .status => .readOnly
  | .ts => .readOnly

end Sys2Proof.Machine
end

