-- ==== Sys2Proof/Machine/Event.lean ====
section
/-! DEFINITION. The atomic events of one instance (R20, R34, R60): what HOST, TSRC, the reset input and ENGINE do.
A run is one total order of such events (R60); the state holds the events still to come as a list (log entry 1). -/

namespace Sys2Proof.Machine

/-- One event of the total order of R60, or the polling loop `wait` of R82, which unfolds into such events. -/
inductive Event where
  /-- HOST `write(no, v)` (R34): `v` is the value in a 64-bit container; the register takes its own width of it. -/
  | wr (no : Nat) (v : AccessValue)
  /-- HOST `read(no)` (R34). -/
  | rd (no : Nat)
  /-- HOST `wait` (R82): repeat `rd STATUS` until bit 7 (BUSY) reads 0. -/
  | wait
  /-- TSRC drives the ports (R27): CLK_SEC = sec, CLK_NSEC = nsec. -/
  | clk (sec : BitVec 64) (nsec : BitVec 32)
  /-- The reset input is asserted (R200). -/
  | reset
  /-- ENGINE is given its turn: it completes the latched command if BUSY = 1 (R38), and has no step otherwise. -/
  | engine
  deriving DecidableEq, Repr

/-- What one HOST read returned: the register number read and the value, zero-extended to 64 bits (R34). -/
structure HostRead where
  no : Nat
  value : AccessValue
  deriving DecidableEq, Repr

end Sys2Proof.Machine
end

