-- ==== Sys2Proof/WellFormed.lean ====
section
/-! DEFINITION. Well-formedness: of a command word (R70), of an instruction, of a HOST access and of the operands of `ldreq` (R82).
The machine runs on ill-formed words and accesses too, as the spec says; these checks say which ones the spec calls legal. -/

namespace Sys2Proof

/-- R70, R81: a command word is legal iff its bits [7:2] are 0b000000. -/
def CmdWord.wf (w : Byte) : Bool := w.extractLsb' 2 6 == 0#6

/-- A command has no operand field (R70), so there is no ill-formed one. -/
def Instr.wf : Instr → Bool
  | .vb => true
  | .val => true
  | .bld => true
  | .conv => true

/-- R54: an access moves exactly one whole register, so a written value fits the register's width.
A write to an unassigned number has no register and no effect (R22): any value is allowed. -/
def Machine.Event.wf : Machine.Event → Bool
  | .wr no v =>
    match Machine.regOfNumber no with
    | some r => decide (v.toNat < 2 ^ Machine.regWidth r)
    | none => true
  | .rd _ => true
  | .wait => true
  | .clk _ _ => true
  | .reset => true
  | .engine => true

/-- R82: `ldreq b0, …, bk` names registers REQ0 … REQk, so it has 1 to 48 octets. -/
def ldreqWf (octets : List Byte) : Bool := decide (1 ≤ octets.length ∧ octets.length ≤ 48)

end Sys2Proof
end

