-- ==== Sys2Proof/Decode.lean ====
section
/-! DEFINITION. The command decoder and encoder (R37, R70, R81), written from the rows of spec/opcode_table.json. -/

namespace Sys2Proof

/-- One row of the opcode table: the word w is the row's command iff `w &&& mask = pattern` (R70: mask 0xFF). -/
structure OpcodeRow where
  pattern : Byte
  mask : Byte
  instr : Instr
  deriving DecidableEq, Repr

/-- Why a word is no command: bits [7:2] are not 0 (R81, 252 words). -/
inductive DecodeError where
  | reservedCmd (word : Byte)
  deriving DecidableEq, Repr

/-- The table's rows (R70). -/
def opcodeRows : List OpcodeRow :=
  [⟨0x00, 0xFF, .vb⟩, ⟨0x01, 0xFF, .val⟩, ⟨0x02, 0xFF, .bld⟩, ⟨0x03, 0xFF, .conv⟩]

/-- R70: "A decoder selects the command from the full 8 bits"; a word no row matches is reserved (R81). -/
def decode (w : Byte) : Except DecodeError Instr :=
  match opcodeRows.find? (fun r => w &&& r.mask == r.pattern) with
  | some r => .ok r.instr
  | none => .error (.reservedCmd w)

/-- The command word of a command (R70). -/
def encode : Instr → Byte
  | .vb => 0x00
  | .val => 0x01
  | .bld => 0x02
  | .conv => 0x03

/-- R37: the command of a latched 2-bit operation code. -/
def commandOfOp (op : BitVec 2) : Instr :=
  if op = 0#2 then .vb else if op = 1#2 then .val else if op = 2#2 then .bld else .conv

/-- The word of the opcode table's numbering, laid out as a CMD write carries it: one 8-bit word (R70).
A number of 2^8 or more is no command word: a command word has one length, 8 bits. -/
def tableWord (w : Nat) : Option Byte := if w < 256 then some (BitVec.ofNat 8 w) else none

/-- What the decoder reads from the table word `w` of `nbits` bits (log entry 7). -/
def decodeTableWord (_nbits w : Nat) : Option Instr :=
  match tableWord w with
  | some b => (decode b).toOption
  | none => none

end Sys2Proof
end

