-- ==== Sys2Proof/Machine/State.lean ====
section
/-! DEFINITION. The state of one instance of the block: the registers of R22, the latch of R31, the TSRC ports of R27,
and what the outside world still does to it (the model's own fields `script` and `reads`, log entries 1 and 8). -/

namespace Sys2Proof.Machine

/-- STATUS (R26), one field per field of the register; `Status.toWord` (Flags.lean) is the 8-bit register. -/
structure Status where
  /-- RESULT, bits [1:0]. -/
  result : BitVec 2
  /-- WRAP, bit [2]. -/
  wrap : Bool
  /-- FAULT, bit [3]. -/
  fault : Bool
  /-- FCAUSE, bits [6:4]. -/
  fcause : BitVec 3
  /-- BUSY, bit [7]. -/
  busy : Bool
  deriving DecidableEq, Repr

/-- The command latch L (R31): hidden state. -/
structure Latch where
  /-- L.op (R37). -/
  op : BitVec 2
  /-- L.req[0..47]. -/
  req : ByteFile
  /-- L.req_len. -/
  reqLen : BitVec 16
  /-- L.now_ntp. -/
  nowNtp : NtpTimestamp
  /-- L.clk_sec, two's complement. -/
  clkSec : BitVec 64
  /-- L.clk_nsec. -/
  clkNsec : BitVec 32
  deriving DecidableEq, Repr

/-- One instance of the block with its ports and what is still to happen to it. -/
structure State where
  /-- REQ0 … REQ47 (R23). -/
  req : ByteFile
  /-- REQ_LEN (R24). -/
  reqLen : BitVec 16
  /-- NOW_NTP (R25). -/
  nowNtp : NtpTimestamp
  /-- RESP0 … RESP47 (R28). -/
  resp : ByteFile
  /-- RESP_LEN (R29). -/
  respLen : BitVec 8
  /-- STATUS (R26). -/
  status : Status
  /-- TS (R30). -/
  ts : NtpTimestamp
  /-- The command latch L (R31). -/
  latch : Latch
  /-- The CLK_SEC port as TSRC drives it (R27). -/
  clkSec : BitVec 64
  /-- The CLK_NSEC port as TSRC drives it (R27). -/
  clkNsec : BitVec 32
  /-- The events still to come, next first: one total order of HOST, TSRC, reset and ENGINE events (R60). -/
  script : List Event
  /-- What HOST's reads returned, the latest first (R34). -/
  reads : List HostRead
  deriving DecidableEq, Repr

/-- Why the machine stops. No behaviour the spec gives a block stops it: a spec fault (R172) is a record in STATUS and the
machine goes on. The one constructor is the use the spec forbids to its own rules. -/
inductive Fault where
  /-- Raised by the request read primitive `REQ[i]` (Operands.lean's `reqOctet`) for an index `i` with i ≥ 48 or
  i ≥ L.req_len: "Reading it with i ≥ L.req_len is forbidden, and no rule does so" (R13, R56). Safe: the model stops where
  the spec gives no value, and an obligation says that no command ever does it. -/
  | reqOutOfBounds (i : Nat)
  deriving DecidableEq, Repr

/-- Why the model gives no meaning. -/
inductive Refusal where
  /-- A command that has no meaning yet, by its mnemonic; raised only by an arm of `exec`. Safe. No arm raises it. -/
  | notModelled (mnemonic : String)
  deriving DecidableEq, Repr

/-- STATUS right after reset: 0x00 (R26, R200). -/
def Status.reset : Status := { result := 0, wrap := false, fault := false, fcause := 0, busy := false }

/-- The latch right after reset. The spec leaves it unspecified and never read (R31, R200): DESIGN CHOICE, all zero
(log entry 4). -/
def Latch.reset : Latch :=
  { op := 0, req := ByteFile.zeros, reqLen := 0, nowNtp := 0, clkSec := 0, clkNsec := 0 }

/-- The machine right after reset: every register zero (R200, R201). The ports are TSRC's and the spec gives them no value:
DESIGN CHOICE, zero (log entry 5). Nothing is scripted and nothing has been read. -/
def State.reset : State :=
  { req := ByteFile.zeros, reqLen := 0, nowNtp := 0,
    resp := ByteFile.zeros, respLen := 0, status := Status.reset, ts := 0,
    latch := Latch.reset,
    clkSec := 0, clkNsec := 0,
    script := [], reads := [] }

end Sys2Proof.Machine
end

