-- ==== Sys2Proof/Machine/Flags.lean ====
section
/-! DEFINITION. STATUS (R26): the register's word, the RESULT and FCAUSE codes, and the fault record (R172).
These fields are the block's only condition flags (R35). -/

namespace Sys2Proof.Machine

/-- The 8-bit register: BUSY [7], FCAUSE [6:4], FAULT [3], WRAP [2], RESULT [1:0] (R26). -/
def Status.toWord (st : Status) : Byte :=
  BitVec.ofBool st.busy ++ st.fcause ++ BitVec.ofBool st.fault ++ BitVec.ofBool st.wrap ++ st.result

/-- What VALIDATE returns (R100). -/
inductive Verdict where
  | ok
  | malformed
  | invalidFormat
  deriving DecidableEq, Repr

/-- RESULT code 0 NONE (R26). -/
def resultNone : BitVec 2 := 0

/-- RESULT code 1 OK (R26). -/
def resultOk : BitVec 2 := 1

/-- The RESULT code of a verdict: 1 OK, 2 MALFORMED, 3 INVALID_FORMAT (R26, R171). -/
def verdictCode : Verdict → BitVec 2
  | .ok => resultOk
  | .malformed => 2
  | .invalidFormat => 3

/-- The spec's faults: a record in STATUS, never a stop of the machine (R170, R172). -/
inductive FaultCause where
  /-- R174. -/
  | issueWhileBusy
  /-- R175. -/
  | reservedCmd
  /-- R176. -/
  | nsecRange
  /-- R177. -/
  | buildPrecondition
  deriving DecidableEq, Repr

/-- The FCAUSE code of a cause (R26). -/
def causeCode : FaultCause → BitVec 3
  | .issueWhileBusy => 1
  | .reservedCmd => 2
  | .nsecRange => 3
  | .buildPrecondition => 4

/-- The fault record of R172 on STATUS: the first fault's cause is kept, FAULT is sticky. -/
def recordFault (c : FaultCause) (st : Status) : Status :=
  { st with fcause := if st.fault then st.fcause else causeCode c, fault := true }

/-- STATUS.RESULT <- r (R13 `result(code)`). -/
def withResult (r : BitVec 2) (st : Status) : Status := { st with result := r }

/-- STATUS.WRAP <- w (R123). -/
def withWrap (w : Bool) (st : Status) : Status := { st with wrap := w }

/-- STATUS.BUSY <- b (R36, R38). -/
def withBusy (b : Bool) (st : Status) : Status := { st with busy := b }

end Sys2Proof.Machine
end

