-- ==== Sys2Proof/Machine/Params.lean ====
section
/-! DEFINITION. The parameters the source settles (R8), each as the spec states it (log entry 14). -/

namespace Sys2Proof.Machine

/-- PKT_LEN: request minimum and response exact length, 48 octets (R8). -/
def pktLen : Nat := 48

/-- NTP_EPOCH_OFFSET: 2,208,988,800 s (R8, R121). -/
def ntpEpochOffset : Int := 2208988800

/-- The nanoseconds of one second: a CLK_NSEC sample is legal iff it is below this (R27, R124). -/
def nsecPerSec : Nat := 1000000000

/-- MODE_CLIENT (R8, R104). -/
def modeClient : BitVec 3 := 3

/-- MODE_SERVER (R8, R141). -/
def modeServer : BitVec 3 := 4

/-- RESP_LI (R8, R141). -/
def respLi : BitVec 2 := 0

/-- STRATUM (R8, R142). -/
def stratum : Byte := 0x01

/-- POLL (R8, R143). -/
def poll : Byte := 0x04

/-- PRECISION: the signed byte −127, stored as 0x81 (R8, R144; the two's-complement reading is PRESUMED by the spec, R75, G1; log entry 13). -/
def precision : Byte := 0x81

/-- ROOT_DELAY (R8, R145). -/
def rootDelay : BitVec 32 := 0

/-- ROOT_DISPERSION (R8, R145). -/
def rootDispersion : BitVec 32 := 0

/-- REFID: ASCII "LOCL" in string order (R8, R77, R146; the codes are PRESUMED by the spec, G2; log entry 13). -/
def refId : Vector Byte 4 := #v[0x4C, 0x4F, 0x43, 0x4C]

end Sys2Proof.Machine
end

