-- ==== Sys2Proof/Machine/Operands.lean ====
section
/-! DEFINITION. Operand forms: the fields of byte 0 (R72), the bounded request read (R56), big-endian serialization (R13, R51,
R52) and what an issue latches (R36, R62). -/

namespace Sys2Proof.Machine

/-- LI = byte0[7:6] (R72). -/
def leapIndicator (b : Byte) : BitVec 2 := b.extractLsb' 6 2

/-- VN = byte0[5:3] (R72). -/
def versionNumber (b : Byte) : BitVec 3 := b.extractLsb' 3 3

/-- Mode = byte0[2:0] (R72). -/
def modeField (b : Byte) : BitVec 3 := b.extractLsb' 0 3

/-- byte0 = LI, VN, Mode from the top bit down (R72). -/
def packByte0 (li : BitVec 2) (vn : BitVec 3) (mode : BitVec 3) : Byte := li ++ vn ++ mode

/-- The request read primitive `REQ[i]` (R13, R56): octet L.req[i], allowed only when i < 48 and i < L.req_len. -/
def reqOctet (l : Latch) (i : Nat) : Except Fault Byte :=
  if h : i < 48 ∧ i < l.reqLen.toNat then .ok (l.req[i]'h.1) else .error (.reqOutOfBounds i)

/-- `REQ[start .. start+n-1]`, octet by octet, lowest first (R11, R147). -/
def reqOctets (l : Latch) (start : Nat) : (n : Nat) → Except Fault (Vector Byte n)
  | 0 => .ok #v[]
  | n + 1 =>
    match reqOctets l start n with
    | .error f => .error f
    | .ok v =>
      match reqOctet l (start + n) with
      | .error f => .error f
      | .ok b => .ok (v.push b)

/-- `be4(v)[k] = v[31−8k : 24−8k]`, k = 0..3 (R13). -/
def be4Octet (v : BitVec 32) (k : Nat) : Byte := v.extractLsb' (24 - 8 * k) 8

/-- `be8(v)[k] = v[63−8k : 56−8k]`, k = 0..7 (R13, R52). -/
def be8Octet (v : NtpTimestamp) (k : Nat) : Byte := v.extractLsb' (56 - 8 * k) 8

/-- The latch an issue of operation code `op` fills: every operand register and the TSRC sample at that event (R36, R62). -/
def latchOf (op : BitVec 2) (s : State) : Latch :=
  { op := op, req := s.req, reqLen := s.reqLen, nowNtp := s.nowNtp, clkSec := s.clkSec, clkNsec := s.clkNsec }

end Sys2Proof.Machine
end

