-- ==== Sys2Proof/Machine/Ops.lean ====
section
/-! DEFINITION. The named operations over registers: raising a fault (R172), reset (R200), register reads and writes (R34, R54,
R55), issue (R36), the end of a completion (R38) and the response registers' writes (R57, R160, R173).
There is no other way to take an exception, and no return from one (R181, R182). -/

namespace Sys2Proof.Machine

/-- `raise Fault(c)` (R172): the record in STATUS and nothing else; the block goes on. -/
def raiseFault (c : FaultCause) (s : State) : State := { s with status := recordFault c s.status }

/-- The reset input (R200): every register of R22 and the latch as after reset; a command in flight is discarded.
The TSRC ports are not affected; HOST's own list of reads and the events to come are no state of the block. -/
def applyReset (s : State) : State :=
  { State.reset with clkSec := s.clkSec, clkNsec := s.clkNsec, script := s.script, reads := s.reads }

/-- The value of a register, in a 64-bit container (R22, R26). CMD has no storage and reads 0x00. -/
def regValue (r : Reg) (s : State) : AccessValue :=
  match r with
  | .req n => (s.req[n]).setWidth 64
  | .reqLen => s.reqLen.setWidth 64
  | .nowNtp => s.nowNtp
  | .cmd => 0
  | .resp n => (s.resp[n]).setWidth 64
  | .respLen => s.respLen.setWidth 64
  | .status => s.status.toWord.setWidth 64
  | .ts => s.ts

/-- HOST `read(no) -> v` (R34): an unassigned number reads 0 (R22). -/
def readNumber (no : Nat) (s : State) : AccessValue :=
  match regOfNumber no with
  | some r => regValue r s
  | none => 0

/-- The issue of a legal command of operation code `op`: latch every operand and the clock sample, BUSY <- 1 (R36). -/
def capture (op : BitVec 2) (s : State) : State :=
  { s with latch := latchOf op s, status := withBusy true s.status }

/-- A HOST write of the word `c` to CMD, one atomic step (R36): the BUSY check comes before the reserved-bits check (R179). -/
def issue (c : Byte) (s : State) : State :=
  if s.status.busy then raiseFault .issueWhileBusy s
  else
    match decode c with
    | .error _ => raiseFault .reservedCmd s
    | .ok _ => capture (c.extractLsb' 0 2) s

/-- A HOST write to a register (R22, R54, R55): the register takes its own width of the value (log entry 6);
a write to an RO register has no effect and raises no fault. -/
def writeReg (r : Reg) (v : AccessValue) (s : State) : State :=
  match r with
  | .req n => { s with req := s.req.set n (v.setWidth 8) }
  | .reqLen => { s with reqLen := v.setWidth 16 }
  | .nowNtp => { s with nowNtp := v }
  | .cmd => issue (v.setWidth 8) s
  | .resp _ => s
  | .respLen => s
  | .status => s
  | .ts => s

/-- HOST `write(no, v)` (R34): a write to an unassigned number has no effect (R22). -/
def writeNumber (no : Nat) (v : AccessValue) (s : State) : State :=
  match regOfNumber no with
  | some r => writeReg r v s
  | none => s

/-- HOST reads a register and notes the value; the read has no side effect on the block (R55). -/
def hostRead (no : Nat) (s : State) : State := { s with reads := ⟨no, readNumber no s⟩ :: s.reads }

/-- Every octet of RESP is written (R57) and RESP_LEN with it (R28, R29). -/
def setResponse (p : ByteFile) (len : BitVec 8) (s : State) : State := { s with resp := p, respLen := len }

/-- "no response is produced": RESP[i] <- 0x00 for i = 0..47 and RESP_LEN <- 0 (R160, R173). -/
def noResponse (s : State) : State := setResponse ByteFile.zeros 0 s

/-- A write of STATUS by a completion. -/
def setStatus (f : Status → Status) (s : State) : State := { s with status := f s.status }

/-- The end of a completion: STATUS.BUSY <- 0, all writes visible together (R38). -/
def complete (s : State) : Host.Outcome State Fault Refusal := .next (setStatus (withBusy false) s)

/-- A completion goes on with what a request read gave, and stops on a read out of bounds (R56). -/
def withRead {α : Type} (x : Except Fault α) (k : α → Host.Outcome State Fault Refusal) : Host.Outcome State Fault Refusal :=
  match x with
  | .error f => .fault f
  | .ok a => k a

end Sys2Proof.Machine
end

