-- ==== Sys2Proof/Machine/Timestamp.lean ====
section
/-! DEFINITION. Timestamp Converter: NTP_FROM_CLOCK (R120 to R128) and the CONV command (R130). -/

namespace Sys2Proof.Machine

/-- s_math = sec + 2,208,988,800 on mathematical integers, sec read as two's complement (R121). -/
def secondsMath (sec : BitVec 64) : Int := sec.toInt + ntpEpochOffset

/-- seconds = u_32(s_math) (R121). -/
def ntpSeconds (sec : BitVec 64) : BitVec 32 := BitVec.ofInt 32 (secondsMath sec)

/-- fraction = floor(nsec × 2^32 / 10^9), exactly on integers (R122). -/
def ntpFraction (nsec : BitVec 32) : BitVec 32 := BitVec.ofNat 32 (nsec.toNat * 2 ^ 32 / nsecPerSec)

/-- wrap = 1 iff s_math < 0 or s_math > 2^32 − 1 (R123). -/
def wrapOf (sec : BitVec 64) : Bool := decide (secondsMath sec < 0 ∨ secondsMath sec > 2 ^ 32 - 1)

/-- NTP_FROM_CLOCK (R125): the timestamp and the wrap bit, or the fault NSEC_RANGE (R124). -/
def ntpFromClock (sec : BitVec 64) (nsec : BitVec 32) : Except FaultCause (NtpTimestamp × Bool) :=
  if nsec.toNat ≥ nsecPerSec then .error .nsecRange
  else .ok (ntpSeconds sec ++ ntpFraction nsec, wrapOf sec)

/-- CONV (R130). A faulting CONV makes no write but the fault record (R173). -/
def execConv (s : State) : Host.Outcome State Fault Refusal :=
  match ntpFromClock s.latch.clkSec s.latch.clkNsec with
  | .error c => complete (raiseFault c s)
  | .ok (t, w) => complete (setStatus (withWrap w) { s with ts := t })

end Sys2Proof.Machine
end

