-- ==== Sys2Proof/Machine/Validator.lean ====
section
/-! DEFINITION. RequestValidator: VALIDATE (R100 to R109) and the VAL command (R110). -/

namespace Sys2Proof.Machine

/-- The header rules R102, R103 and R104 on byte 0. -/
def headerVerdict (b : Byte) : Verdict :=
  if ¬ (leapIndicator b = 0 ∨ leapIndicator b = 3) then .invalidFormat
  else if ¬ (1 ≤ (versionNumber b).toNat ∧ (versionNumber b).toNat ≤ 4) then .invalidFormat
  else if ¬ (modeField b = modeClient) then .invalidFormat
  else .ok

/-- VALIDATE() (R107): the length guard first (R101), then byte 0. -/
def validate (l : Latch) : Except Fault Verdict :=
  if l.reqLen.toNat < pktLen then .ok .malformed
  else
    match reqOctet l 0 with
    | .error f => .error f
    | .ok b => .ok (headerVerdict b)

/-- VAL (R110). -/
def execVal (s : State) : Host.Outcome State Fault Refusal :=
  withRead (validate s.latch) fun v => complete (setStatus (withResult (verdictCode v)) s)

end Sys2Proof.Machine
end

