-- ==== Sys2Proof/Machine/Builder.lean ====
section
/-! DEFINITION. ResponseBuilder: BUILD_PACKET (R140 to R149), the BLD command (R150) and the VB command (R160). -/

namespace Sys2Proof.Machine

/-- Octet i of the response packet (R141 to R148, laid out as R71): `b0` is the request's byte 0, `orig` its octets 40–47. -/
def packetOctet (b0 : Byte) (orig : Vector Byte 8) (now : NtpTimestamp) (i : Fin 48) : Byte :=
  if i.val = 0 then packByte0 respLi (versionNumber b0) modeServer       -- R141
  else if i.val = 1 then stratum                                         -- R142
  else if i.val = 2 then poll                                            -- R143
  else if i.val = 3 then precision                                       -- R144
  else if i.val < 8 then be4Octet rootDelay (i.val - 4)                  -- R145
  else if i.val < 12 then be4Octet rootDispersion (i.val - 8)            -- R145
  else if h : i.val < 16 then refId[i.val - 12]                          -- R146
  else if i.val < 24 then be8Octet now (i.val - 16)                      -- R148 Reference
  else if h : i.val < 32 then orig[i.val - 24]                           -- R147 Originate
  else if i.val < 40 then be8Octet now (i.val - 32)                      -- R148 Receive
  else be8Octet now (i.val - 40)                                         -- R148 Transmit

/-- All 48 octets (R149). -/
def packet (b0 : Byte) (orig : Vector Byte 8) (now : NtpTimestamp) : ByteFile := Vector.ofFn (packetOctet b0 orig now)

/-- BUILD_PACKET(now) (R149): it reads REQ[0] and REQ[40..47] only. -/
def buildPacket (l : Latch) (now : NtpTimestamp) : Except Fault ByteFile :=
  match reqOctet l 0 with
  | .error f => .error f
  | .ok b0 =>
    match reqOctets l 40 8 with
    | .error f => .error f
    | .ok orig => .ok (packet b0 orig now)

/-- The faulting completion of BLD (R173): RESULT <- NONE and no response. -/
def bldFaults (c : FaultCause) (s : State) : State :=
  noResponse (setStatus (withResult resultNone) (raiseFault c s))

/-- BLD (R150). -/
def execBld (s : State) : Host.Outcome State Fault Refusal :=
  withRead (validate s.latch) fun v =>
    match v with
    | .malformed => complete (bldFaults .buildPrecondition s)
    | .invalidFormat => complete (bldFaults .buildPrecondition s)
    | .ok =>
      withRead (buildPacket s.latch s.latch.nowNtp) fun p =>
        complete (setStatus (withResult resultOk) (setResponse p 48 s))

/-- A rejecting VB (R160): RESULT <- v, WRAP <- 0 and no response; the clock is not examined. -/
def vbRejects (v : Verdict) (s : State) : State :=
  noResponse (setStatus (fun st => withWrap false (withResult (verdictCode v) st)) s)

/-- The faulting completion of VB (R173): RESULT <- NONE, WRAP <- 0 and no response. -/
def vbFaults (c : FaultCause) (s : State) : State :=
  noResponse (setStatus (fun st => withWrap false (withResult resultNone st)) (raiseFault c s))

/-- VB (R160). -/
def execVb (s : State) : Host.Outcome State Fault Refusal :=
  withRead (validate s.latch) fun v =>
    match v with
    | .malformed => complete (vbRejects .malformed s)
    | .invalidFormat => complete (vbRejects .invalidFormat s)
    | .ok =>
      match ntpFromClock s.latch.clkSec s.latch.clkNsec with
      | .error c => complete (vbFaults c s)
      | .ok (now, w) =>
        withRead (buildPacket s.latch now) fun p =>
          complete (setStatus (fun st => withWrap w (withResult resultOk st)) (setResponse p 48 s))

end Sys2Proof.Machine
end

