-- ==== Sys2Proof/Machine/Dispatch.lean ====
section
/-! DEFINITION. ENGINE's completion of a command (R38): one arm per command. -/

namespace Sys2Proof.Machine

def exec (i : Instr) (s : State) : Host.Outcome State Fault Refusal :=
  match i with
  | .vb => Sys2Proof.Machine.execVb s
  | .val => Sys2Proof.Machine.execVal s
  | .bld => Sys2Proof.Machine.execBld s
  | .conv => Sys2Proof.Machine.execConv s

end Sys2Proof.Machine
end

