-- ==== Sys2Proof/Machine/Program.lean ====
section
/-! DEFINITION. The host program notation of R82 as lists of events, and accesses through a platform bus (92 D4).
`wr NAME, v`, `rd NAME`, `wait`, `clk s, n` and `reset` are events; `cmd` and `ldreq` expand to writes. -/

namespace Sys2Proof.Machine

/-- `wr NAME, v` (R82). -/
def wrName (r : Reg) (v : AccessValue) : Event := .wr (regNumber r) v

/-- `rd NAME` (R82). -/
def rdName (r : Reg) : Event := .rd (regNumber r)

/-- `cmd VB` / `cmd VAL` / `cmd BLD` / `cmd CONV`: `wr CMD, <command word>` (R82). -/
def cmdEvent (i : Instr) : Event := wrName .cmd ((encode i).setWidth 64)

/-- `ldreq b0, …, bk` from register number `no` on: one write per octet (R82). -/
def ldreqFrom (no : Nat) : List Byte → List Event
  | [] => []
  | b :: bs => .wr no (b.setWidth 64) :: ldreqFrom (no + 1) bs

/-- `ldreq b0, …, bk`: `wr REQ0, b0`; …; `wr REQk, bk` (R82). -/
def ldreq (octets : List Byte) : List Event := ldreqFrom (regNumber (.req 0)) octets

/-- A whole-register write that reaches the block through the platform's bus at a bus address (R58, 92 D4). -/
def busWrite (address : Nat) (v : AccessValue) : Event := .wr (Config.busBinding address) v

/-- A whole-register read through the platform's bus (R58, 92 D4). -/
def busRead (address : Nat) : Event := .rd (Config.busBinding address)

end Sys2Proof.Machine
end

