-- ==== Sys2Proof/Machine/Agents.lean ====
section
/-! DEFINITION. What each agent's event does (R20, R34, R38, R60): HOST, TSRC, the reset input and ENGINE. -/

namespace Sys2Proof.Machine

/-- ENGINE's turn (R38): enabled exactly when BUSY = 1, it completes the latched command; otherwise it has no step and the
state is kept (R189). -/
def engineTurn (s : State) : Host.Outcome State Fault Refusal :=
  if s.status.busy then exec (commandOfOp s.latch.op) s else .next s

/-- One poll of `wait` (R82): HOST reads STATUS; on BUSY = 1 ENGINE is given a turn and HOST polls again (R220; log entry 2). -/
def pollStatus (s : State) : State :=
  let s' := hostRead (regNumber .status) s
  if s.status.busy then { s' with script := .engine :: .wait :: s'.script } else s'

/-- TSRC drives the ports (R27). -/
def driveClock (sec : BitVec 64) (nsec : BitVec 32) (s : State) : State := { s with clkSec := sec, clkNsec := nsec }

/-- One event (R60), on a state from whose script it has been taken. -/
def perform (e : Event) (s : State) : Host.Outcome State Fault Refusal :=
  match e with
  | .wr no v => .next (writeNumber no v s)
  | .rd no => .next (hostRead no s)
  | .wait => .next (pollStatus s)
  | .clk sec nsec => .next (driveClock sec nsec s)
  | .reset => .next (applyReset s)
  | .engine => engineTurn s

/-- The next event of a state, taken from its script: with nothing left to happen from outside, ENGINE has its turn, so
that a busy block completes (weak fairness, R220; log entry 2). -/
def nextEvent (s : State) : Event × State :=
  match s.script with
  | [] => (.engine, s)
  | e :: rest => (e, { s with script := rest })

/-- The state in which the table word `w` has reached the block and the very next event runs it (log entry 7): a legal
word has been issued (R36) and ENGINE is next; a reserved word is HOST's next write to CMD; a number of 2^8 or more is
carried by no CMD write and changes nothing. -/
def placeWord (w : Nat) (s : State) : State :=
  match tableWord w with
  | none => s
  | some b =>
    match decode b with
    | .ok _ => { capture (b.extractLsb' 0 2) s with script := .engine :: s.script }
    | .error _ => { s with script := wrName .cmd (b.setWidth 64) :: s.script }

end Sys2Proof.Machine
end

