-- ==== Sys2Proof/Machine/Platform.lean ====
section
/-! DEFINITION. N_INST independent instances of the block (R187, 92 D27): the OPEN parameter is the argument `n`, and
`NInst` holds its bound N_INST ≥ 1 (R9).
Instances share no state; nothing orders events of different instances, so any list of instance numbers is an order. -/

namespace Sys2Proof.Machine

/-- A platform of `n` instances (R187): each has its own registers, its own latch and its own TSRC sample. -/
structure Platform (n : NInst) where
  blocks : Vector State n.val
  deriving DecidableEq, Repr

/-- Every instance right after power-on (R200). -/
def powerOn (n : NInst) : Platform n := { blocks := Vector.replicate n.val State.reset }

/-- One event of instance `k` (R187): no other instance takes part. -/
def stepAt {n : NInst} (k : Fin n.val) (p : Platform n) : Host.Outcome (Platform n) Fault Refusal :=
  match step p.blocks[k] with
  | .next s => .next { blocks := p.blocks.set k s }
  | .fault f => .fault f
  | .refused r => .refused r

/-- Events of the instances named by a list, in its order. -/
def stepInstances {n : NInst} : List (Fin n.val) → Platform n → Host.Outcome (Platform n) Fault Refusal
  | [], p => .next p
  | k :: ks, p =>
    match stepAt k p with
    | .next p' => stepInstances ks p'
    | .fault f => .fault f
    | .refused r => .refused r

end Sys2Proof.Machine
end

