-- ==== Sys2Proof/Safety.lean ====
section
/-! DEFINITION. The terms claims are stated in: which requests the spec accepts (R101 to R104), what an accepted response holds
(R141 to R148), and the invariant of the block's result registers (R26, R29, R162).
They are written from the spec's words with plain bit fields, not with the model's own functions. -/

namespace Sys2Proof.Machine

/-- Byte 0 passes the header rules: LI ∈ {0, 3} (R102), 1 ≤ VN ≤ 4 (R103), Mode = 3 (R104). -/
abbrev HeaderAccepted (b : Byte) : Prop :=
  (b.extractLsb' 6 2 = 0#2 ∨ b.extractLsb' 6 2 = 3#2) ∧
  (1 ≤ (b.extractLsb' 3 3).toNat ∧ (b.extractLsb' 3 3).toNat ≤ 4) ∧
  b.extractLsb' 0 3 = 3#3

/-- The latched request passes VALIDATE: length at least 48 (R101) and an accepted byte 0. -/
abbrev RequestAccepted (l : Latch) : Prop := 48 ≤ l.reqLen.toNat ∧ HeaderAccepted l.req[0]

/-- The fields of every response that depend on no request octet and no clock: LI 0, Mode 4, VN 1..4 (R74, R141), Stratum,
Poll, Precision (R142 to R144), Root Delay and Root Dispersion (R145), "LOCL" (R146), one instant in the Reference, Receive and
Transmit Timestamps (R148). -/
structure ServerReply (p : ByteFile) : Prop where
  li : p[0].extractLsb' 6 2 = 0#2
  vn : 1 ≤ (p[0].extractLsb' 3 3).toNat ∧ (p[0].extractLsb' 3 3).toNat ≤ 4
  mode : p[0].extractLsb' 0 3 = 4#3
  stratum : p[1] = 0x01
  poll : p[2] = 0x04
  precision : p[3] = 0x81
  root : ∀ k : Fin 8, p[4 + k.val] = 0x00
  refId : p[12] = 0x4C ∧ p[13] = 0x4F ∧ p[14] = 0x43 ∧ p[15] = 0x4C
  reference : ∀ k : Fin 8, p[16 + k.val] = p[32 + k.val]
  transmit : ∀ k : Fin 8, p[40 + k.val] = p[32 + k.val]

/-- `p` is the response to the latched request `l` at the instant `now`, all 48 octets (R141 to R149). -/
structure ReplyTo (l : Latch) (now : NtpTimestamp) (p : ByteFile) : Prop where
  byte0 : p[0] = 0#2 ++ l.req[0].extractLsb' 3 3 ++ 4#3
  stratum : p[1] = 0x01
  poll : p[2] = 0x04
  precision : p[3] = 0x81
  root : ∀ k : Fin 8, p[4 + k.val] = 0x00
  refId : p[12] = 0x4C ∧ p[13] = 0x4F ∧ p[14] = 0x43 ∧ p[15] = 0x4C
  reference : ∀ k : Fin 8, p[16 + k.val] = now.extractLsb' (56 - 8 * k.val) 8
  originate : ∀ k : Fin 8, p[24 + k.val] = l.req[40 + k.val]
  receive : ∀ k : Fin 8, p[32 + k.val] = now.extractLsb' (56 - 8 * k.val) 8
  transmit : ∀ k : Fin 8, p[40 + k.val] = p[32 + k.val]

/-- The invariant of the result registers: RESP_LEN is 48 and RESP holds a server reply, or RESP_LEN is 0 and RESP is all zero
(R29, R160, R162, R173); FCAUSE is a defined code, and it is NONE exactly while no fault is recorded (R26, R172). -/
structure Inv (s : State) : Prop where
  response : (s.respLen = 48 ∧ ServerReply s.resp) ∨ (s.respLen = 0 ∧ ∀ i : Fin 48, s.resp[i] = 0x00)
  cause : s.status.fcause.toNat ≤ 4
  record : s.status.fault = false ↔ s.status.fcause = 0

/-- The duties of HOST and TSRC that the block can check (R190), on the next event: CMD is written only while BUSY = 0, with a
legal word, and BLD only on a request that passes VALIDATE; a sample has CLK_NSEC ≤ 999,999,999. The duties it cannot check are no state of the block (log entry 20). -/
def Duty (s : State) : Prop :=
  match s.script.head? with
  | some (.wr no v) =>
    no = 0x32 → s.status.busy = false ∧ (v.setWidth 8).extractLsb' 2 6 = 0#6 ∧
      ((v.setWidth 8).extractLsb' 0 2 = 2#2 → 48 ≤ s.reqLen.toNat ∧ HeaderAccepted s.req[0])
  | some (.clk _ nsec) => nsec.toNat ≤ 999999999
  | _ => True

/-- A block no duty of R190 has been broken on: no fault is recorded, TSRC drives a legal sample, and a command in flight has
a legal sample and, if it is BLD, a request that passes VALIDATE. -/
structure Undisturbed (s : State) : Prop where
  noFault : s.status.fault = false
  sample : s.clkNsec.toNat ≤ 999999999
  inFlight : s.status.busy = true →
    s.latch.clkNsec.toNat ≤ 999999999 ∧ (s.latch.op = 2#2 → RequestAccepted s.latch)

/-- `k` steps of the machine, stopping at a fault or a refusal: the host's run of the core, with the types written out. -/
def steps (k : Nat) (s : State) : Host.Outcome State Fault Refusal := Host.Core.run core k s

end Sys2Proof.Machine
end

