-- ==== Sys2Proof/Certificates/Slice0/Obligations.lean ====
section
/-! DEFINITION. The statements for the provers. Each docstring names the rules of spec/ it formalises. -/

open Sys2Proof Sys2Proof.Machine

/-! ## Encoding and the register map -/

/-- R70, R37: decoding the word of a well-formed command gives it back, and a word that decodes is its command's only word. -/
def Obligations.DecodeOfEncodeIsTheCommand : Prop :=
  (∀ i : Instr, Instr.wf i = true → decode (encode i) = .ok i) ∧
  (∀ (w : Byte) (i : Instr), decode w = .ok i → encode i = w)

/-- R70: the four legal command words, bit by bit, from the CMD register's decoder, the opcode table's numbering and the
latched operation code (R37). -/
def Obligations.CommandWordsDecode : Prop :=
  decode 0b00000000#8 = .ok .vb ∧ decode 0b00000001#8 = .ok .val ∧
  decode 0b00000010#8 = .ok .bld ∧ decode 0b00000011#8 = .ok .conv ∧
  decodeTableWord 8 0 = some .vb ∧ decodeTableWord 8 1 = some .val ∧
  decodeTableWord 8 2 = some .bld ∧ decodeTableWord 8 3 = some .conv ∧
  commandOfOp 0b00#2 = .vb ∧ commandOfOp 0b01#2 = .val ∧ commandOfOp 0b10#2 = .bld ∧ commandOfOp 0b11#2 = .conv

/-- R81: the reserved command words are exactly those with bits [7:2] other than 0, and each is refused by name. -/
def Obligations.ReservedCommandWordsRefused : Prop :=
  ∀ w : Byte, (w.extractLsb' 2 6 ≠ 0#6 ↔ decode w = .error (.reservedCmd w)) ∧
    (w.extractLsb' 2 6 = 0#6 → decode w = .ok (commandOfOp (w.extractLsb' 0 2)))

/-- R22: every register has its own number, the assigned numbers are those of the table, and no other number names one. -/
def Obligations.RegisterNumbersAreUnique : Prop :=
  (∀ r : Reg, regOfNumber (regNumber r) = some r) ∧
  (∀ (no : Nat) (r : Reg), regOfNumber no = some r → regNumber r = no) ∧
  (∀ no : Nat, regOfNumber no = none ↔ ((0x33 ≤ no ∧ no ≤ 0x3F) ∨ 0x73 ≤ no))

/-- R26: where each field of STATUS stands in the 8-bit register. -/
def Obligations.StatusFieldPositions : Prop :=
  ∀ st : Status, st.toWord.extractLsb' 0 2 = st.result ∧ st.toWord.getLsbD 2 = st.wrap ∧ st.toWord.getLsbD 3 = st.fault ∧
    st.toWord.extractLsb' 4 3 = st.fcause ∧ st.toWord.getLsbD 7 = st.busy

/-! ## HOST accesses -/

/-- R34, R54, R55: a HOST write to an operand register stores the register's own width of the value; every other register, the
latch, the ports and HOST's list of reads stay. For a value that fits the register (the only kind R54 knows) it is the value;
that a wider one is cut is the model's choice (log entry 6). -/
def Obligations.OperandWriteStoresOneRegister : Prop :=
  ∀ (s : State) (r : Reg) (v : AccessValue) (es : List Event), regAccess r = .readWrite →
    ∃ t, step { s with script := .wr (regNumber r) v :: es } = .next t ∧
      (regValue r t).toNat = v.toNat % 2 ^ regWidth r ∧
      (∀ r' : Reg, r' ≠ r → regValue r' t = regValue r' s) ∧
      t.latch = s.latch ∧ t.clkSec = s.clkSec ∧ t.clkNsec = s.clkNsec ∧ t.script = es ∧ t.reads = s.reads

/-- R22: a HOST write to an RO register or to an unassigned number has no effect and raises no fault. -/
def Obligations.ReadOnlyAndUnassignedWritesIgnored : Prop :=
  ∀ (s : State) (no : Nat) (v : AccessValue) (es : List Event),
    (0x33 ≤ no ∧ no ≤ 0x3F) ∨ (0x40 ≤ no ∧ no ≤ 0x6F) ∨ no = 0x70 ∨ no = 0x71 ∨ no = 0x72 ∨ 0x73 ≤ no →
    step { s with script := .wr no v :: es } = .next { s with script := es }

/-- R34, R54, R55, R22: a HOST read returns the register's value and has no side effect; CMD and unassigned numbers read 0. -/
def Obligations.ReadReturnsRegisterWithoutSideEffect : Prop :=
  ∀ (s : State) (no : Nat) (es : List Event),
    ∃ v : AccessValue, step { s with script := .rd no :: es } = .next { s with script := es, reads := ⟨no, v⟩ :: s.reads } ∧
      (∀ n : Fin 48, no = n.val → v = (s.req[n]).setWidth 64) ∧
      (no = 0x30 → v = s.reqLen.setWidth 64) ∧
      (no = 0x31 → v = s.nowNtp) ∧
      (no = 0x32 → v = 0) ∧
      (∀ n : Fin 48, no = 0x40 + n.val → v = (s.resp[n]).setWidth 64) ∧
      (no = 0x70 → v = s.respLen.setWidth 64) ∧
      (no = 0x71 → v = s.status.toWord.setWidth 64) ∧
      (no = 0x72 → v = s.ts) ∧
      ((0x33 ≤ no ∧ no ≤ 0x3F) ∨ 0x73 ≤ no → v = 0)

/-- R82: `wait` reads STATUS; on BUSY = 0 HOST goes on, on BUSY = 1 it polls again. That ENGINE has its turn between two polls
is the model's choice (log entry 2). -/
def Obligations.WaitPollsStatusUntilIdle : Prop :=
  ∀ (s : State) (es : List Event),
    (s.status.busy = false →
      step { s with script := .wait :: es } = .next { s with script := es, reads := ⟨0x71, s.status.toWord.setWidth 64⟩ :: s.reads }) ∧
    (s.status.busy = true →
      step { s with script := .wait :: es } =
        .next { s with script := .engine :: .wait :: es, reads := ⟨0x71, s.status.toWord.setWidth 64⟩ :: s.reads })

/-- R27: TSRC drives the two ports and nothing else changes; no law relates the new sample to the old one. -/
def Obligations.TimeSourceDrivesPortsOnly : Prop :=
  ∀ (s : State) (sec : BitVec 64) (nsec : BitVec 32) (es : List Event),
    step { s with script := .clk sec nsec :: es } = .next { s with script := es, clkSec := sec, clkNsec := nsec }

/-! ## Issue -/

/-- R36: a HOST write of `c` to CMD does exactly one of: record ISSUE_WHILE_BUSY, record RESERVED_CMD, or latch every operand
with the clock sample and set BUSY. -/
def Obligations.IssueDoesExactlyOneOfThree : Prop :=
  ∀ (s : State) (c : Byte) (es : List Event),
    (s.status.busy = true →
      step { s with script := .wr 0x32 (c.setWidth 64) :: es } =
        .next { s with script := es,
                       status := { s.status with fcause := if s.status.fault then s.status.fcause else 1, fault := true } }) ∧
    (s.status.busy = false → c.extractLsb' 2 6 ≠ 0#6 →
      step { s with script := .wr 0x32 (c.setWidth 64) :: es } =
        .next { s with script := es,
                       status := { s.status with fcause := if s.status.fault then s.status.fcause else 2, fault := true } }) ∧
    (s.status.busy = false → c.extractLsb' 2 6 = 0#6 →
      step { s with script := .wr 0x32 (c.setWidth 64) :: es } =
        .next { s with script := es, status := { s.status with busy := true },
                       latch := { op := c.extractLsb' 0 2, req := s.req, reqLen := s.reqLen, nowNtp := s.nowNtp,
                                  clkSec := s.clkSec, clkNsec := s.clkNsec } })

/-- R38 and the fixed names: ENGINE's turn on a busy block is `exec` of the latched command, whether the turn is scripted or
nothing else is left to happen; after a CMD write of a word that decodes to `i`, it is `exec i`; and a placed word runs at once.
Two clauses are the model's choice: that ENGINE has its turn once the script is exhausted (log entry 2), and that a placed word is
issued whatever BUSY is, where R36 would drop HOST's write (log entry 7). -/
def Obligations.StepRunsTheDecodedCommand : Prop :=
  (∀ (s : State) (es : List Event), s.status.busy = true →
    step { s with script := .engine :: es } = exec (commandOfOp s.latch.op) { s with script := es }) ∧
  (∀ s : State, s.status.busy = true → s.script = [] → step s = exec (commandOfOp s.latch.op) s) ∧
  (∀ (s : State) (c : Byte) (i : Instr) (es : List Event), s.status.busy = false → decode c = .ok i →
    ∃ t, step { s with script := .wr 0x32 (c.setWidth 64) :: .engine :: es } = .next t ∧ t.status.busy = true ∧
      step t = exec i { t with script := es }) ∧
  (∀ (s : State) (c : Byte) (i : Instr), decode c = .ok i →
    step (s.withFetchWord 8 c.toNat) =
      exec i { s with status := { s.status with busy := true },
                      latch := { op := c.extractLsb' 0 2, req := s.req, reqLen := s.reqLen, nowNtp := s.nowNtp,
                                 clkSec := s.clkSec, clkNsec := s.clkNsec } })

/-- R38, R189: ENGINE has no step while BUSY = 0, and an idle block with nothing left to happen keeps all of its state. That a
scripted turn of ENGINE is then passed over, and that a step with nothing scripted is ENGINE's turn, are the model's choice (log
entries 3 and 2). -/
def Obligations.IdleBlockKeepsItsState : Prop :=
  ∀ s : State, s.status.busy = false →
    (∀ es, step { s with script := .engine :: es } = .next { s with script := es }) ∧ (s.script = [] → step s = .next s)

/-! ## VAL -/

/-- R101 to R104, R107, R110: VAL completes in every state with VALIDATE's code in RESULT; nothing else but BUSY changes. -/
def Obligations.ValWritesTheVerdict : Prop :=
  ∀ s : State,
    exec .val s = .next { s with status := { s.status with
      result := if s.latch.reqLen.toNat < 48 then 2 else if HeaderAccepted s.latch.req[0] then 1 else 3,
      busy := false } }

/-- R73: exactly the eight listed values of byte 0 pass, through VAL on a request of full length. -/
def Obligations.EightHeaderBytesAccepted : Prop :=
  ∀ (s t : State), 48 ≤ s.latch.reqLen.toNat → exec .val s = .next t →
    (t.status.result = 1 ↔ s.latch.req[0] ∈ [0x0B#8, 0x13#8, 0x1B#8, 0x23#8, 0xCB#8, 0xD3#8, 0xDB#8, 0xE3#8]) ∧
    (t.status.result = 1 ∨ t.status.result = 3)

/-! ## CONV -/

/-- R121, R122, R123, R130: with a legal sample CONV writes TS and WRAP and nothing else but BUSY. -/
def Obligations.ConvWritesTimestampAndWrap : Prop :=
  ∀ s : State, s.latch.clkNsec.toNat < 1000000000 →
    exec .conv s = .next { s with
      ts := BitVec.ofInt 32 (s.latch.clkSec.toInt + 2208988800) ++ BitVec.ofNat 32 (s.latch.clkNsec.toNat * 2 ^ 32 / 1000000000),
      status := { s.status with
        wrap := decide (s.latch.clkSec.toInt + 2208988800 < 0 ∨ s.latch.clkSec.toInt + 2208988800 > 4294967295),
        busy := false } }

/-- R124, R130, R173, R176: with nsec ≥ 10^9 CONV records NSEC_RANGE and leaves TS, WRAP and RESULT. -/
def Obligations.ConvFaultsOnNanosecondRange : Prop :=
  ∀ s : State, 1000000000 ≤ s.latch.clkNsec.toNat →
    exec .conv s = .next { s with status := { s.status with
      fcause := if s.status.fault then s.status.fcause else 3, fault := true, busy := false } }

/-- R126: the laws of the fraction, over every pair of legal nanosecond counts, read from TS after CONV. -/
def Obligations.FractionLaws : Prop :=
  ∃ f : Nat → Nat,
    (∀ s t : State, s.latch.clkNsec.toNat < 1000000000 → exec .conv s = .next t →
      (t.ts.extractLsb' 0 32).toNat = f s.latch.clkNsec.toNat) ∧
    f 0 = 0 ∧ f 1 = 4 ∧ f 500000000 = 0x80000000 ∧ f 999999999 = 0xFFFFFFFB ∧
    (∀ a b : Nat, a < b → b ≤ 999999999 → f a < f b) ∧
    (∀ a : Nat, a < 999999999 → f (a + 1) - f a = 4 ∨ f (a + 1) - f a = 5) ∧
    (∀ a : Nat, a ≤ 999999999 → f a ≤ 0xFFFFFFFB)

/-- R121: the equivalent hardware form: only the low 32 bits of sec affect the seconds field. -/
def Obligations.SecondsFromTheLowHalf : Prop :=
  ∀ s t : State, s.latch.clkNsec.toNat < 1000000000 → exec .conv s = .next t →
    t.ts.extractLsb' 32 32 = s.latch.clkSec.extractLsb' 0 32 + 0x83AA7E80#32

/-- R123, R127: WRAP after CONV is 1 exactly outside Unix seconds −2,208,988,800 … 2,085,978,495. -/
def Obligations.WrapExactlyOutsideEraZero : Prop :=
  ∀ s t : State, s.latch.clkNsec.toNat < 1000000000 → exec .conv s = .next t →
    (t.status.wrap = true ↔ (s.latch.clkSec.toInt < -2208988800 ∨ 2085978496 ≤ s.latch.clkSec.toInt))

/-- R127: the era boundaries. -/
def Obligations.EraBoundaries : Prop :=
  ∀ s t : State, s.latch.clkNsec.toNat < 1000000000 → exec .conv s = .next t →
    (s.latch.clkSec.toInt = 0 → t.ts.extractLsb' 32 32 = 0x83AA7E80#32) ∧
    (s.latch.clkSec.toInt = -2208988800 → t.ts.extractLsb' 32 32 = 0#32 ∧ t.status.wrap = false) ∧
    (s.latch.clkSec.toInt = 2085978495 → t.ts.extractLsb' 32 32 = 0xFFFFFFFF#32 ∧ t.status.wrap = false) ∧
    (s.latch.clkSec.toInt = 2085978496 → t.ts.extractLsb' 32 32 = 0#32 ∧ t.status.wrap = true) ∧
    (s.latch.clkSec.toInt = -2208988801 → t.ts.extractLsb' 32 32 = 0xFFFFFFFF#32 ∧ t.status.wrap = true)

/-! ## BLD and VB -/

/-- R141 to R150: BLD on an accepted request completes with the 48 octets of the reply at NOW_NTP, RESP_LEN 48, RESULT OK;
nothing else but BUSY changes. -/
def Obligations.BldBuildsTheReply : Prop :=
  ∀ s : State, RequestAccepted s.latch →
    ∃ p : ByteFile, ReplyTo s.latch s.latch.nowNtp p ∧
      exec .bld s = .next { s with resp := p, respLen := 48, status := { s.status with result := 1, busy := false } }

/-- R150, R173, R177: BLD on a request that fails VALIDATE records BUILD_PRECONDITION and leaves no response. -/
def Obligations.BldFaultsOnRejectedRequest : Prop :=
  ∀ s : State, ¬ RequestAccepted s.latch →
    exec .bld s = .next { s with
      resp := Vector.replicate 48 0x00, respLen := 0,
      status := { s.status with
        result := 0, fcause := if s.status.fault then s.status.fcause else 4, fault := true, busy := false } }

/-- R141 to R149, R121 to R123, R160, R161: VB on an accepted request with a legal sample completes with the reply at the
sampled instant, RESP_LEN 48, RESULT OK and WRAP; nothing else but BUSY changes. -/
def Obligations.VbBuildsTheReply : Prop :=
  ∀ s : State, RequestAccepted s.latch → s.latch.clkNsec.toNat < 1000000000 →
    ∃ p : ByteFile,
      ReplyTo s.latch (BitVec.ofInt 32 (s.latch.clkSec.toInt + 2208988800) ++
        BitVec.ofNat 32 (s.latch.clkNsec.toNat * 2 ^ 32 / 1000000000)) p ∧
      exec .vb s = .next { s with
        resp := p, respLen := 48,
        status := { s.status with
          result := 1,
          wrap := decide (s.latch.clkSec.toInt + 2208988800 < 0 ∨ s.latch.clkSec.toInt + 2208988800 > 4294967295),
          busy := false } }

/-- R160, R171, R179: VB on a rejected request reports MALFORMED or INVALID_FORMAT, for every clock sample, and leaves no
response. -/
def Obligations.VbRejectsWithoutResponse : Prop :=
  ∀ s : State, ¬ RequestAccepted s.latch →
    exec .vb s = .next { s with
      resp := Vector.replicate 48 0x00, respLen := 0,
      status := { s.status with
        result := if s.latch.reqLen.toNat < 48 then 2 else 3, wrap := false, busy := false } }

/-- R160, R173, R176: VB on an accepted request with nsec ≥ 10^9 records NSEC_RANGE and leaves no response. -/
def Obligations.VbFaultsOnNanosecondRange : Prop :=
  ∀ s : State, RequestAccepted s.latch → 1000000000 ≤ s.latch.clkNsec.toNat →
    exec .vb s = .next { s with
      resp := Vector.replicate 48 0x00, respLen := 0,
      status := { s.status with
        result := 0, wrap := false,
        fcause := if s.status.fault then s.status.fcause else 3, fault := true, busy := false } }

/-- R163: VB agrees with CONV, then NOW_NTP <- TS, then BLD. CONV completes on an idle block `s` with a legal sample, giving TS in
`c`; HOST then writes it to NOW_NTP and issues BLD in any idle state `d` that holds an accepted request; a VB from any idle state
`e` with that request and the sample of `s` gives the same response. -/
def Obligations.VbEqualsConvThenBld : Prop :=
  ∀ (s c d e u v : State),
    s.status.busy = false → s.clkNsec.toNat < 1000000000 →
    steps 2 { s with script := [cmdEvent .conv, .engine] } = .next c →
    d.status.busy = false → 48 ≤ d.reqLen.toNat → HeaderAccepted d.req[0] →
    steps 3 { d with script := [.wr 0x31 c.ts, cmdEvent .bld, .engine] } = .next u →
    e.status.busy = false → e.req = d.req → e.reqLen = d.reqLen → e.clkSec = s.clkSec → e.clkNsec = s.clkNsec →
    steps 2 { e with script := [cmdEvent .vb, .engine] } = .next v →
    u.resp = v.resp ∧ u.respLen = 48 ∧ v.respLen = 48 ∧ u.status.result = 1 ∧ v.status.result = 1

/-! ## Frames and write sets -/

/-- R38, R110, R130, R150, R160, R173: no completion writes an operand register, the latch, the ports, the events to come or
HOST's reads, and every completion clears BUSY. -/
def Obligations.CompletionKeepsOperands : Prop :=
  ∀ (i : Instr) (s t : State), exec i s = .next t →
    (∀ n : Fin 48, t.req[n] = s.req[n]) ∧ t.reqLen = s.reqLen ∧ t.nowNtp = s.nowNtp ∧ t.latch = s.latch ∧
    t.clkSec = s.clkSec ∧ t.clkNsec = s.clkNsec ∧ t.script = s.script ∧ t.reads = s.reads ∧ t.status.busy = false

/-- The write sets of 10_state section 6 (R110, R130, R150, R160, R172, R173): what each completion leaves. -/
def Obligations.CompletionWriteSets : Prop :=
  ∀ s t : State,
    (exec .val s = .next t → (∀ n : Fin 48, t.resp[n] = s.resp[n]) ∧ t.respLen = s.respLen ∧ t.ts = s.ts ∧
      t.status.wrap = s.status.wrap ∧ t.status.fault = s.status.fault ∧ t.status.fcause = s.status.fcause) ∧
    (exec .conv s = .next t → (∀ n : Fin 48, t.resp[n] = s.resp[n]) ∧ t.respLen = s.respLen ∧
      t.status.result = s.status.result) ∧
    (exec .bld s = .next t → t.ts = s.ts ∧ t.status.wrap = s.status.wrap) ∧
    (exec .vb s = .next t → t.ts = s.ts)

/-- R26, R28 to R30: over every event, TS changes only at a CONV completion or a reset, RESP and RESP_LEN only at a VB or BLD
completion or a reset. That an exhausted script stands for ENGINE's turn is the model's choice (log entry 2). -/
def Obligations.OnlyCompletionsWriteResults : Prop :=
  ∀ (s t : State) (e : Event), (s.script.head? = some e ∨ (s.script = [] ∧ e = .engine)) → step s = .next t → e ≠ .reset →
    (t.ts ≠ s.ts → e = .engine ∧ s.status.busy = true ∧ s.latch.op = 3#2) ∧
    (t.resp ≠ s.resp ∨ t.respLen ≠ s.respLen →
      e = .engine ∧ s.status.busy = true ∧ (s.latch.op = 0#2 ∨ s.latch.op = 2#2))

/-! ## Non-interference -/

/-- R56, R105, R106, R149: a completion reads no request octet but 0 and 40–47, and none at all of a request shorter than 48. -/
def Obligations.OtherRequestOctetsAreNotRead : Prop :=
  ∀ (i : Instr) (s t : State) (x : ByteFile),
    (s.latch.reqLen.toNat < 48 ∨ (x[0] = s.latch.req[0] ∧ ∀ k : Fin 8, x[40 + k.val] = s.latch.req[40 + k.val])) →
    exec i s = .next t →
    exec i { s with latch := { s.latch with req := x } } = .next { t with latch := { t.latch with req := x } }

/-- R21: no completion reads a result register: VB with other old results ends in the same results (TS aside, which it leaves),
and each of the others writes the same values over whatever stood there. -/
def Obligations.CompletionsReadNoResult : Prop :=
  ∀ (s s' t : State) (p : ByteFile) (n : BitVec 8) (x : NtpTimestamp) (r : BitVec 2) (w : Bool),
    s' = { s with resp := p, respLen := n, ts := x, status := { s.status with result := r, wrap := w } } →
    (exec .vb s = .next t → exec .vb s' = .next { t with ts := x }) ∧
    (exec .val s = .next t →
      exec .val s' = .next { t with resp := p, respLen := n, ts := x, status := { t.status with wrap := w } }) ∧
    (exec .bld s = .next t → exec .bld s' = .next { t with ts := x, status := { t.status with wrap := w } }) ∧
    (exec .conv s = .next t → s.latch.clkNsec.toNat < 1000000000 →
      exec .conv s' = .next { t with resp := p, respLen := n, status := { t.status with result := r } })

/-- R162: determinism. Two VB completions whose latches agree in req_len, req[0], req[40..47] and the sample give the same
RESP, RESP_LEN, RESULT and WRAP, whatever else differs; two BLD completions with equal now_ntp give the same RESP, RESP_LEN and
RESULT. -/
def Obligations.ResponsesAreDeterministic : Prop :=
  ∀ (s u t v : State), s.latch.reqLen = u.latch.reqLen → s.latch.req[0] = u.latch.req[0] →
    (∀ k : Fin 8, s.latch.req[40 + k.val] = u.latch.req[40 + k.val]) →
    (s.latch.clkSec = u.latch.clkSec → s.latch.clkNsec = u.latch.clkNsec → exec .vb s = .next t → exec .vb u = .next v →
      t.resp = v.resp ∧ t.respLen = v.respLen ∧ t.status.result = v.status.result ∧ t.status.wrap = v.status.wrap) ∧
    (s.latch.nowNtp = u.latch.nowNtp → exec .bld s = .next t → exec .bld u = .next v →
      t.resp = v.resp ∧ t.respLen = v.respLen ∧ t.status.result = v.status.result)

/-- R31, R32, 93 U7: while BUSY = 0 what the latch holds is never observed: over any number of steps and any events, a run from
an idle block differs from the run with any other latch at most in the latch, and not even there once a command is in flight. -/
def Obligations.IdleLatchIsUnobservable : Prop :=
  ∀ (k : Nat) (s t : State) (l : Latch), s.status.busy = false → steps k s = .next t →
    ∃ l' : Latch, steps k { s with latch := l } = .next { t with latch := l' } ∧
      (t.status.busy = true → l' = t.latch)

/-- R32, R62, R213: HOST's writes to the operand registers after an issue do not change the command: such a write and the
completion give the same state in either order. -/
def Obligations.OperandWritesCommuteWithCompletion : Prop :=
  ∀ (s : State) (r : Reg) (v : AccessValue) (es : List Event), s.status.busy = true → regAccess r = .readWrite →
    ∃ t, steps 2 { s with script := .wr (regNumber r) v :: .engine :: es } = .next t ∧
      steps 2 { s with script := .engine :: .wr (regNumber r) v :: es } = .next t

/-- R187: on a platform of any N_INST ≥ 1 (R9) instances are independent: a step of one leaves every other as it is and goes
as that instance's own step, and the steps of two instances give the same platform in either order. -/
def Obligations.InstancesAreIndependent : Prop :=
  (∀ (n : NInst) (k : Fin n.val) (p q : Platform n), stepAt k p = .next q →
    step p.blocks[k] = .next q.blocks[k] ∧ ∀ j : Fin n.val, j ≠ k → q.blocks[j] = p.blocks[j]) ∧
  (∀ (n : NInst) (j k : Fin n.val) (p : Platform n), j ≠ k →
    ∃ q, stepInstances [j, k] p = .next q ∧ stepInstances [k, j] p = .next q)

/-! ## Reset and the fault record -/

/-- R200: the reset input zeroes every register and STATUS and discards a command in flight, and leaves the TSRC ports; power-on
leaves the same register values. The latch is left out: the spec leaves it unspecified. Of the discarded command the spec says that
it never completes; that a scripted turn of ENGINE after the reset is passed over with the rest of the state kept is the model's
choice (log entry 3), and so is that the reset keeps HOST's list of reads (log entry 8). -/
def Obligations.ResetZeroesEveryRegister : Prop :=
  ∀ (s : State) (es : List Event),
    ∃ t, step { s with script := .reset :: es } = .next t ∧
      (∀ n : Fin 48, t.req[n] = 0x00 ∧ t.resp[n] = 0x00) ∧ t.reqLen = 0 ∧ t.nowNtp = 0 ∧ t.respLen = 0 ∧ t.ts = 0 ∧
      t.status.toWord = 0x00 ∧ t.clkSec = s.clkSec ∧ t.clkNsec = s.clkNsec ∧ t.script = es ∧ t.reads = s.reads ∧
      (∀ es', step { t with script := .engine :: es' } = .next { t with script := es' }) ∧
      (∀ r : Reg, regValue r t = regValue r State.reset)

/-- R201: the state after power-on has every register zero. -/
def Obligations.PowerOnIsTheResetState : Prop :=
  ∀ r : Reg, regValue r State.reset = 0

/-- R202: the first command after reset, with no operand written: every command sees L.req_len = 0, so VB and VAL report
MALFORMED and BLD faults BUILD_PRECONDITION; CONV converts whatever TSRC drives, or faults on it (R124). -/
def Obligations.FirstCommandAfterReset : Prop :=
  ∀ (sec : BitVec 64) (nsec : BitVec 32) (i : Instr),
    ∃ t, steps 3 { State.reset with script := [.clk sec nsec, cmdEvent i, .engine] } = .next t ∧
      t.latch.reqLen = 0 ∧
      (i = .vb ∨ i = .val → t.status.toWord = 0x02) ∧
      (i = .bld → t.status.toWord = 0x48) ∧
      (i = .conv → nsec.toNat < 1000000000 →
        t.ts = BitVec.ofInt 32 (sec.toInt + 2208988800) ++ BitVec.ofNat 32 (nsec.toNat * 2 ^ 32 / 1000000000)) ∧
      (i = .conv → 1000000000 ≤ nsec.toNat → t.ts = 0 ∧ t.status.toWord = 0x38)

/-- R172, R182: the fault record is sticky: over every event but a reset, a recorded fault stays with its first cause. -/
def Obligations.FirstFaultStaysUntilReset : Prop :=
  ∀ (s t : State), step s = .next t → s.status.fault = true → (∀ es, s.script ≠ .reset :: es) →
    t.status.fault = true ∧ t.status.fcause = s.status.fcause

/-- R170, R174 to R177, R179: a fault is recorded only by an issue while busy, by the issue of a reserved word, by the completion
of CONV or of VB on an accepted request with nsec ≥ 10^9, or by the completion of BLD on a request that fails VALIDATE; a first
fault leaves that cause's code. That an exhausted script stands for ENGINE's turn is the model's choice (log entry 2). -/
def Obligations.FaultsHaveTheFourCauses : Prop :=
  ∀ (s t : State) (e : Event), (s.script.head? = some e ∨ (s.script = [] ∧ e = .engine)) → step s = .next t →
    s.status.fault = false → t.status.fault = true →
    (∃ v, e = .wr 0x32 v ∧ s.status.busy = true ∧ t.status.fcause = 1) ∨
    (∃ v, e = .wr 0x32 v ∧ s.status.busy = false ∧ (v.setWidth 8).extractLsb' 2 6 ≠ 0#6 ∧ t.status.fcause = 2) ∨
    (e = .engine ∧ s.status.busy = true ∧ (s.latch.op = 3#2 ∨ (s.latch.op = 0#2 ∧ RequestAccepted s.latch)) ∧
      1000000000 ≤ s.latch.clkNsec.toNat ∧ t.status.fcause = 3) ∨
    (e = .engine ∧ s.status.busy = true ∧ s.latch.op = 2#2 ∧ ¬ RequestAccepted s.latch ∧ t.status.fcause = 4)

/-- R36, R174, R38, R211: a command in flight keeps its latch, and stays in flight until ENGINE's turn or a reset; until then the
result registers hold what they held before. That an exhausted script stands for ENGINE's turn is the model's choice (log entry 2). -/
def Obligations.InFlightCommandIsKept : Prop :=
  ∀ (s t : State) (e : Event), (s.script.head? = some e ∨ (s.script = [] ∧ e = .engine)) → s.status.busy = true →
    step s = .next t → e ≠ .reset →
    t.latch = s.latch ∧
    (e ≠ .engine → t.status.busy = true ∧ t.resp = s.resp ∧ t.respLen = s.respLen ∧ t.ts = s.ts ∧
      t.status.result = s.status.result ∧ t.status.wrap = s.status.wrap) ∧
    (e = .engine → t.status.busy = false)

/-- R170, R190: a HOST and a TSRC that keep the duties the block can check never cause a fault: over any number of steps on each
of which the duties are kept, no fault is recorded. `Duty` is the model's reading of the duties (log entry 20), on a CMD value cut to
8 bits (log entry 6). That State.reset is undisturbed rests on the model's choice of 0 for the TSRC ports at power-on (log entry 5);
every other undisturbed state starts such a run too, whatever legal sample its ports hold. -/
def Obligations.DutifulAgentsCauseNoFault : Prop :=
  Undisturbed State.reset ∧
  ∀ (k : Nat) (s t : State), Undisturbed s → (∀ (j : Nat) (u : State), j < k → steps j s = .next u → Duty u) →
    steps k s = .next t → Undisturbed t ∧ t.status.fault = false

/-! ## Invariants and liveness -/

/-- R29, R200: the invariant holds right after reset. -/
def Obligations.ResetSatisfiesTheInvariant : Prop := Inv State.reset

/-- R26, R29, R81, R162, R172, R173: every step keeps the invariant: RESP_LEN is 0 or 48, a response that may be sent is a
Stratum-1 LOCL server reply, and FCAUSE is a defined code that stands for a recorded fault. -/
def Obligations.EveryStepKeepsTheInvariant : Prop :=
  ∀ s t : State, Inv s → step s = .next t → Inv t

/-- R56, R106, R149, R172: no command reads the request out of bounds and no event stops the block: every command completes in
every state, and every state has a next one, also after a fault. That an idle block with an exhausted script has a next state, itself,
is the model's choice (log entries 2 and 3): R38 gives ENGINE no step there. -/
def Obligations.TheBlockNeverStops : Prop :=
  (∀ (i : Instr) (s : State), ∃ t, exec i s = .next t) ∧
  (∀ (k : Nat) (s : State), ∃ t, steps k s = .next t)

/-- R220: BUSY does not stay 1: within three steps for each scripted event and one more, the script is done and the block is idle.
A command in flight has then completed, unless a scripted reset discarded it. The bound rests on the model's weak fairness (log
entry 2). -/
def Obligations.ScriptEndsWithTheBlockIdle : Prop :=
  ∀ s : State, ∃ t, steps (3 * s.script.length + 1) s = .next t ∧ t.script = [] ∧ t.status.busy = false
end

