-- ==== Sys2Proof/Laws/Decode.lean ====
section
/-! SUPPORT. What the decoder can answer (R70, R81), and its rows. -/

namespace Sys2Proof

/-- A word matches two rows only if they are one row: decoding is unambiguous (R70). -/
theorem opcodeRows_disjoint : opcodeRows.Pairwise fun a b => ∀ w : Byte, ¬ (w &&& a.mask = a.pattern ∧ w &&& b.mask = b.pattern) := by
  decide +revert

/-- `decode` says once everything it can do: a command for bits [7:2] = 0, a refusal by name for the rest. -/
theorem decode_eq (w : Byte) :
    decode w = if w.extractLsb' 2 6 = 0#6 then .ok (commandOfOp (w.extractLsb' 0 2)) else .error (.reservedCmd w) := by
  revert w; decide

theorem decode_ok (w : Byte) (h : w.extractLsb' 2 6 = 0#6) : decode w = .ok (commandOfOp (w.extractLsb' 0 2)) := by
  rw [decode_eq, if_pos h]

theorem decode_error (w : Byte) (h : w.extractLsb' 2 6 ≠ 0#6) : decode w = .error (.reservedCmd w) := by
  rw [decode_eq, if_neg h]

/-- The word of a command holds its operation code in bits [1:0] (R37). -/
@[simp] theorem commandOfOp_encode (i : Instr) : commandOfOp ((encode i).extractLsb' 0 2) = i := by cases i <;> decide

/-- The word of a command has bits [7:2] = 0 (R70). -/
@[simp] theorem encode_reserved_zero (i : Instr) : (encode i).extractLsb' 2 6 = 0#6 := by cases i <;> decide

theorem commandOfOp_vb (op : BitVec 2) : commandOfOp op = .vb ↔ op = 0#2 := by revert op; decide
theorem commandOfOp_val (op : BitVec 2) : commandOfOp op = .val ↔ op = 1#2 := by revert op; decide
theorem commandOfOp_bld (op : BitVec 2) : commandOfOp op = .bld ↔ op = 2#2 := by revert op; decide
theorem commandOfOp_conv (op : BitVec 2) : commandOfOp op = .conv ↔ op = 3#2 := by revert op; decide

end Sys2Proof
end

