-- ==== Sys2Proof/Laws/Operands.lean ====
section
/-! SUPPORT. What the request reads, VALIDATE and BUILD_PACKET can answer (R56, R100 to R109, R140 to R149). -/

namespace Sys2Proof.Machine

/-- An octet inside the request and the byte file is read (R56). -/
theorem reqOctet_ok (l : Latch) (i : Nat) (h : i < 48) (hl : i < l.reqLen.toNat) : reqOctet l i = .ok l.req[i] := by
  simp [reqOctet, h, hl]

/-- A run of octets inside the request is read whole (R56, R147). -/
theorem reqOctets_ok (l : Latch) (start n : Nat) (h : start + n ≤ 48) (hl : start + n ≤ l.reqLen.toNat) :
    reqOctets l start n = .ok (Vector.ofFn fun k : Fin n => l.req[start + k.val]) := by
  induction n with
  | zero => simp [reqOctets]
  | succ n ih =>
    rw [reqOctets, ih (by omega) (by omega)]
    simp only [reqOctet_ok l (start + n) (by omega) (by omega), Except.ok.injEq]
    apply Vector.ext
    intro i hi
    rw [Vector.getElem_push, Vector.getElem_ofFn]
    split
    · rw [Vector.getElem_ofFn]
    · have : i = n := by omega
      subst this; rfl

/-- VALIDATE() as a plain function of L.req_len and L.req[0] (R100). -/
@[irreducible] def verdict (l : Latch) : Verdict := if l.reqLen.toNat < 48 then .malformed else headerVerdict l.req[0]

/-- VALIDATE() never reads out of bounds (R106), and answers the verdict. -/
@[simp] theorem validate_eq (l : Latch) : validate l = .ok (verdict l) := by
  unfold validate verdict pktLen
  split
  · rfl
  · rw [reqOctet_ok l 0 (by omega) (by omega)]

/-- The header rules R102 to R104 in the words of Safety.lean. -/
theorem headerVerdict_eq (b : Byte) : headerVerdict b = if HeaderAccepted b then .ok else .invalidFormat := by
  revert b; decide

theorem verdict_eq (l : Latch) :
    verdict l = if l.reqLen.toNat < 48 then .malformed else if HeaderAccepted l.req[0] then .ok else .invalidFormat := by
  simp only [verdict, headerVerdict_eq]

theorem verdict_ok_iff (l : Latch) : verdict l = .ok ↔ RequestAccepted l := by
  rw [verdict_eq]
  by_cases h : l.reqLen.toNat < 48
  · rw [if_pos h]; exact ⟨fun h' => (nomatch h'), fun h' => absurd h'.1 (by omega)⟩
  · rw [if_neg h]
    split
    · next hb => exact ⟨fun _ => ⟨by omega, hb⟩, fun _ => rfl⟩
    · next hb => exact ⟨fun h' => (nomatch h'), fun h' => absurd h'.2 hb⟩

/-- The octets of BUILD_PACKET as a plain function of the latch (R149). -/
@[irreducible] def replyOf (l : Latch) (now : NtpTimestamp) : ByteFile :=
  packet l.req[0] (Vector.ofFn fun k : Fin 8 => l.req[40 + k.val]) now

/-- On a request of full length BUILD_PACKET never reads out of bounds (R149). -/
theorem buildPacket_eq (l : Latch) (now : NtpTimestamp) (h : 48 ≤ l.reqLen.toNat) :
    buildPacket l now = .ok (replyOf l now) := by
  simp [buildPacket, reqOctet_ok l 0 (by omega) (by omega), reqOctets_ok l 40 8 (by omega) (by omega), replyOf]

/-- BUILD_PACKET reads REQ[0] and REQ[40..47] only (R149). -/
theorem replyOf_congr (l l' : Latch) (now : NtpTimestamp) (h0 : l.req[0] = l'.req[0])
    (h : ∀ k : Fin 8, l.req[40 + k.val] = l'.req[40 + k.val]) : replyOf l now = replyOf l' now := by
  unfold replyOf; simp only [h0, h]

theorem packet_getElem (b0 : Byte) (orig : Vector Byte 8) (now : NtpTimestamp) (i : Nat) (h : i < 48) :
    (packet b0 orig now)[i] = packetOctet b0 orig now ⟨i, h⟩ := by simp [packet]

/-- The packet octet by octet is the reply of R141 to R149. -/
theorem replyOf_spec (l : Latch) (now : NtpTimestamp) : ReplyTo l now (replyOf l now) where
  byte0 := by simp [replyOf, packet_getElem, packetOctet, packByte0, respLi, modeServer, versionNumber]
  stratum := by simp [replyOf, packet_getElem, packetOctet, stratum]
  poll := by simp [replyOf, packet_getElem, packetOctet, poll]
  precision := by simp [replyOf, packet_getElem, packetOctet, precision]
  root := by
    intro k
    fin_cases k <;> simp [replyOf, packet_getElem, packetOctet, be4Octet, rootDelay, rootDispersion]
  refId := by simp [replyOf, packet_getElem, packetOctet, refId]
  reference := by intro k; fin_cases k <;> simp [replyOf, packet_getElem, packetOctet, be8Octet]
  originate := by intro k; fin_cases k <;> simp [replyOf, packet_getElem, packetOctet]
  receive := by intro k; fin_cases k <;> simp [replyOf, packet_getElem, packetOctet, be8Octet]
  transmit := by intro k; fin_cases k <;> simp [replyOf, packet_getElem, packetOctet, be8Octet]

/-- The response byte 0 of a request whose VN is legal (R74). -/
theorem replyByte0_fields (b : Byte) (h : HeaderAccepted b) :
    (0#2 ++ b.extractLsb' 3 3 ++ 4#3 : Byte).extractLsb' 6 2 = 0#2 ∧
    (1 ≤ ((0#2 ++ b.extractLsb' 3 3 ++ 4#3 : Byte).extractLsb' 3 3).toNat ∧
      ((0#2 ++ b.extractLsb' 3 3 ++ 4#3 : Byte).extractLsb' 3 3).toNat ≤ 4) ∧
    (0#2 ++ b.extractLsb' 3 3 ++ 4#3 : Byte).extractLsb' 0 3 = 4#3 := by
  revert b; decide

/-- A reply to an accepted request is a server reply (R162). -/
theorem ReplyTo.serverReply (l : Latch) (now : NtpTimestamp) (p : ByteFile) (h : ReplyTo l now p)
    (ha : HeaderAccepted l.req[0]) : ServerReply p := by
  have hb := replyByte0_fields l.req[0] ha
  rw [← h.byte0] at hb
  exact { li := hb.1, vn := hb.2.1, mode := hb.2.2, stratum := h.stratum, poll := h.poll, precision := h.precision,
          root := h.root, refId := h.refId, reference := fun k => by rw [h.reference k, h.receive k], transmit := h.transmit }

end Sys2Proof.Machine
end

