-- ==== Sys2Proof/Laws/PerInstr.lean ====
section
/-! SUPPORT. The family of statements about every command as syntax: its word is legal and carries its operation code. -/

namespace Sys2Proof.Laws.Encoding

/-- The command is well-formed, its word is legal (R70, R81), and bits [1:0] of the word are its operation code (R37). -/
def Statement (i : Instr) : Prop :=
  i.wf = true ∧ CmdWord.wf (encode i) = true ∧ commandOfOp ((encode i).extractLsb' 0 2) = i

theorem vb : Statement .vb := by unfold Statement; decide
theorem val : Statement .val := by unfold Statement; decide
theorem bld : Statement .bld := by unfold Statement; decide
theorem conv : Statement .conv := by unfold Statement; decide

end Sys2Proof.Laws.Encoding
end

