-- ==== Sys2Proof/Laws/State.lean ====
section
/-! SUPPORT. One lemma per field per update of State and of Status, each true by rfl, so that no proof unfolds a record update. -/

namespace Sys2Proof.Machine

@[simp] theorem raiseFault_req (c : FaultCause) (s : State) : (raiseFault c s).req = s.req := rfl
@[simp] theorem raiseFault_reqLen (c : FaultCause) (s : State) : (raiseFault c s).reqLen = s.reqLen := rfl
@[simp] theorem raiseFault_nowNtp (c : FaultCause) (s : State) : (raiseFault c s).nowNtp = s.nowNtp := rfl
@[simp] theorem raiseFault_resp (c : FaultCause) (s : State) : (raiseFault c s).resp = s.resp := rfl
@[simp] theorem raiseFault_respLen (c : FaultCause) (s : State) : (raiseFault c s).respLen = s.respLen := rfl
@[simp] theorem raiseFault_status (c : FaultCause) (s : State) : (raiseFault c s).status = recordFault c s.status := rfl
@[simp] theorem raiseFault_ts (c : FaultCause) (s : State) : (raiseFault c s).ts = s.ts := rfl
@[simp] theorem raiseFault_latch (c : FaultCause) (s : State) : (raiseFault c s).latch = s.latch := rfl
@[simp] theorem raiseFault_clkSec (c : FaultCause) (s : State) : (raiseFault c s).clkSec = s.clkSec := rfl
@[simp] theorem raiseFault_clkNsec (c : FaultCause) (s : State) : (raiseFault c s).clkNsec = s.clkNsec := rfl
@[simp] theorem raiseFault_script (c : FaultCause) (s : State) : (raiseFault c s).script = s.script := rfl
@[simp] theorem raiseFault_reads (c : FaultCause) (s : State) : (raiseFault c s).reads = s.reads := rfl

@[simp] theorem capture_req (op : BitVec 2) (s : State) : (capture op s).req = s.req := rfl
@[simp] theorem capture_reqLen (op : BitVec 2) (s : State) : (capture op s).reqLen = s.reqLen := rfl
@[simp] theorem capture_nowNtp (op : BitVec 2) (s : State) : (capture op s).nowNtp = s.nowNtp := rfl
@[simp] theorem capture_resp (op : BitVec 2) (s : State) : (capture op s).resp = s.resp := rfl
@[simp] theorem capture_respLen (op : BitVec 2) (s : State) : (capture op s).respLen = s.respLen := rfl
@[simp] theorem capture_status (op : BitVec 2) (s : State) : (capture op s).status = withBusy true s.status := rfl
@[simp] theorem capture_ts (op : BitVec 2) (s : State) : (capture op s).ts = s.ts := rfl
@[simp] theorem capture_latch (op : BitVec 2) (s : State) : (capture op s).latch = latchOf op s := rfl
@[simp] theorem capture_clkSec (op : BitVec 2) (s : State) : (capture op s).clkSec = s.clkSec := rfl
@[simp] theorem capture_clkNsec (op : BitVec 2) (s : State) : (capture op s).clkNsec = s.clkNsec := rfl
@[simp] theorem capture_script (op : BitVec 2) (s : State) : (capture op s).script = s.script := rfl
@[simp] theorem capture_reads (op : BitVec 2) (s : State) : (capture op s).reads = s.reads := rfl

@[simp] theorem setResponse_req (p : ByteFile) (n : BitVec 8) (s : State) : (setResponse p n s).req = s.req := rfl
@[simp] theorem setResponse_reqLen (p : ByteFile) (n : BitVec 8) (s : State) : (setResponse p n s).reqLen = s.reqLen := rfl
@[simp] theorem setResponse_nowNtp (p : ByteFile) (n : BitVec 8) (s : State) : (setResponse p n s).nowNtp = s.nowNtp := rfl
@[simp] theorem setResponse_resp (p : ByteFile) (n : BitVec 8) (s : State) : (setResponse p n s).resp = p := rfl
@[simp] theorem setResponse_respLen (p : ByteFile) (n : BitVec 8) (s : State) : (setResponse p n s).respLen = n := rfl
@[simp] theorem setResponse_status (p : ByteFile) (n : BitVec 8) (s : State) : (setResponse p n s).status = s.status := rfl
@[simp] theorem setResponse_ts (p : ByteFile) (n : BitVec 8) (s : State) : (setResponse p n s).ts = s.ts := rfl
@[simp] theorem setResponse_latch (p : ByteFile) (n : BitVec 8) (s : State) : (setResponse p n s).latch = s.latch := rfl
@[simp] theorem setResponse_clkSec (p : ByteFile) (n : BitVec 8) (s : State) : (setResponse p n s).clkSec = s.clkSec := rfl
@[simp] theorem setResponse_clkNsec (p : ByteFile) (n : BitVec 8) (s : State) : (setResponse p n s).clkNsec = s.clkNsec := rfl
@[simp] theorem setResponse_script (p : ByteFile) (n : BitVec 8) (s : State) : (setResponse p n s).script = s.script := rfl
@[simp] theorem setResponse_reads (p : ByteFile) (n : BitVec 8) (s : State) : (setResponse p n s).reads = s.reads := rfl

@[simp] theorem noResponse_req (s : State) : (noResponse s).req = s.req := rfl
@[simp] theorem noResponse_reqLen (s : State) : (noResponse s).reqLen = s.reqLen := rfl
@[simp] theorem noResponse_nowNtp (s : State) : (noResponse s).nowNtp = s.nowNtp := rfl
@[simp] theorem noResponse_resp (s : State) : (noResponse s).resp = ByteFile.zeros := rfl
@[simp] theorem noResponse_respLen (s : State) : (noResponse s).respLen = 0 := rfl
@[simp] theorem noResponse_status (s : State) : (noResponse s).status = s.status := rfl
@[simp] theorem noResponse_ts (s : State) : (noResponse s).ts = s.ts := rfl
@[simp] theorem noResponse_latch (s : State) : (noResponse s).latch = s.latch := rfl
@[simp] theorem noResponse_clkSec (s : State) : (noResponse s).clkSec = s.clkSec := rfl
@[simp] theorem noResponse_clkNsec (s : State) : (noResponse s).clkNsec = s.clkNsec := rfl
@[simp] theorem noResponse_script (s : State) : (noResponse s).script = s.script := rfl
@[simp] theorem noResponse_reads (s : State) : (noResponse s).reads = s.reads := rfl

@[simp] theorem setStatus_req (f : Status → Status) (s : State) : (setStatus f s).req = s.req := rfl
@[simp] theorem setStatus_reqLen (f : Status → Status) (s : State) : (setStatus f s).reqLen = s.reqLen := rfl
@[simp] theorem setStatus_nowNtp (f : Status → Status) (s : State) : (setStatus f s).nowNtp = s.nowNtp := rfl
@[simp] theorem setStatus_resp (f : Status → Status) (s : State) : (setStatus f s).resp = s.resp := rfl
@[simp] theorem setStatus_respLen (f : Status → Status) (s : State) : (setStatus f s).respLen = s.respLen := rfl
@[simp] theorem setStatus_status (f : Status → Status) (s : State) : (setStatus f s).status = f s.status := rfl
@[simp] theorem setStatus_ts (f : Status → Status) (s : State) : (setStatus f s).ts = s.ts := rfl
@[simp] theorem setStatus_latch (f : Status → Status) (s : State) : (setStatus f s).latch = s.latch := rfl
@[simp] theorem setStatus_clkSec (f : Status → Status) (s : State) : (setStatus f s).clkSec = s.clkSec := rfl
@[simp] theorem setStatus_clkNsec (f : Status → Status) (s : State) : (setStatus f s).clkNsec = s.clkNsec := rfl
@[simp] theorem setStatus_script (f : Status → Status) (s : State) : (setStatus f s).script = s.script := rfl
@[simp] theorem setStatus_reads (f : Status → Status) (s : State) : (setStatus f s).reads = s.reads := rfl

@[simp] theorem hostRead_req (no : Nat) (s : State) : (hostRead no s).req = s.req := rfl
@[simp] theorem hostRead_reqLen (no : Nat) (s : State) : (hostRead no s).reqLen = s.reqLen := rfl
@[simp] theorem hostRead_nowNtp (no : Nat) (s : State) : (hostRead no s).nowNtp = s.nowNtp := rfl
@[simp] theorem hostRead_resp (no : Nat) (s : State) : (hostRead no s).resp = s.resp := rfl
@[simp] theorem hostRead_respLen (no : Nat) (s : State) : (hostRead no s).respLen = s.respLen := rfl
@[simp] theorem hostRead_status (no : Nat) (s : State) : (hostRead no s).status = s.status := rfl
@[simp] theorem hostRead_ts (no : Nat) (s : State) : (hostRead no s).ts = s.ts := rfl
@[simp] theorem hostRead_latch (no : Nat) (s : State) : (hostRead no s).latch = s.latch := rfl
@[simp] theorem hostRead_clkSec (no : Nat) (s : State) : (hostRead no s).clkSec = s.clkSec := rfl
@[simp] theorem hostRead_clkNsec (no : Nat) (s : State) : (hostRead no s).clkNsec = s.clkNsec := rfl
@[simp] theorem hostRead_script (no : Nat) (s : State) : (hostRead no s).script = s.script := rfl
@[simp] theorem hostRead_reads (no : Nat) (s : State) : (hostRead no s).reads = ⟨no, readNumber no s⟩ :: s.reads := rfl

@[simp] theorem driveClock_req (a : BitVec 64) (b : BitVec 32) (s : State) : (driveClock a b s).req = s.req := rfl
@[simp] theorem driveClock_reqLen (a : BitVec 64) (b : BitVec 32) (s : State) : (driveClock a b s).reqLen = s.reqLen := rfl
@[simp] theorem driveClock_nowNtp (a : BitVec 64) (b : BitVec 32) (s : State) : (driveClock a b s).nowNtp = s.nowNtp := rfl
@[simp] theorem driveClock_resp (a : BitVec 64) (b : BitVec 32) (s : State) : (driveClock a b s).resp = s.resp := rfl
@[simp] theorem driveClock_respLen (a : BitVec 64) (b : BitVec 32) (s : State) : (driveClock a b s).respLen = s.respLen := rfl
@[simp] theorem driveClock_status (a : BitVec 64) (b : BitVec 32) (s : State) : (driveClock a b s).status = s.status := rfl
@[simp] theorem driveClock_ts (a : BitVec 64) (b : BitVec 32) (s : State) : (driveClock a b s).ts = s.ts := rfl
@[simp] theorem driveClock_latch (a : BitVec 64) (b : BitVec 32) (s : State) : (driveClock a b s).latch = s.latch := rfl
@[simp] theorem driveClock_clkSec (a : BitVec 64) (b : BitVec 32) (s : State) : (driveClock a b s).clkSec = a := rfl
@[simp] theorem driveClock_clkNsec (a : BitVec 64) (b : BitVec 32) (s : State) : (driveClock a b s).clkNsec = b := rfl
@[simp] theorem driveClock_script (a : BitVec 64) (b : BitVec 32) (s : State) : (driveClock a b s).script = s.script := rfl
@[simp] theorem driveClock_reads (a : BitVec 64) (b : BitVec 32) (s : State) : (driveClock a b s).reads = s.reads := rfl

@[simp] theorem applyReset_req (s : State) : (applyReset s).req = ByteFile.zeros := rfl
@[simp] theorem applyReset_reqLen (s : State) : (applyReset s).reqLen = 0 := rfl
@[simp] theorem applyReset_nowNtp (s : State) : (applyReset s).nowNtp = 0 := rfl
@[simp] theorem applyReset_resp (s : State) : (applyReset s).resp = ByteFile.zeros := rfl
@[simp] theorem applyReset_respLen (s : State) : (applyReset s).respLen = 0 := rfl
@[simp] theorem applyReset_status (s : State) : (applyReset s).status = Status.reset := rfl
@[simp] theorem applyReset_ts (s : State) : (applyReset s).ts = 0 := rfl
@[simp] theorem applyReset_latch (s : State) : (applyReset s).latch = Latch.reset := rfl
@[simp] theorem applyReset_clkSec (s : State) : (applyReset s).clkSec = s.clkSec := rfl
@[simp] theorem applyReset_clkNsec (s : State) : (applyReset s).clkNsec = s.clkNsec := rfl
@[simp] theorem applyReset_script (s : State) : (applyReset s).script = s.script := rfl
@[simp] theorem applyReset_reads (s : State) : (applyReset s).reads = s.reads := rfl

@[simp] theorem withResult_result (r : BitVec 2) (st : Status) : (withResult r st).result = r := rfl
@[simp] theorem withResult_wrap (r : BitVec 2) (st : Status) : (withResult r st).wrap = st.wrap := rfl
@[simp] theorem withResult_fault (r : BitVec 2) (st : Status) : (withResult r st).fault = st.fault := rfl
@[simp] theorem withResult_fcause (r : BitVec 2) (st : Status) : (withResult r st).fcause = st.fcause := rfl
@[simp] theorem withResult_busy (r : BitVec 2) (st : Status) : (withResult r st).busy = st.busy := rfl

@[simp] theorem withWrap_result (w : Bool) (st : Status) : (withWrap w st).result = st.result := rfl
@[simp] theorem withWrap_wrap (w : Bool) (st : Status) : (withWrap w st).wrap = w := rfl
@[simp] theorem withWrap_fault (w : Bool) (st : Status) : (withWrap w st).fault = st.fault := rfl
@[simp] theorem withWrap_fcause (w : Bool) (st : Status) : (withWrap w st).fcause = st.fcause := rfl
@[simp] theorem withWrap_busy (w : Bool) (st : Status) : (withWrap w st).busy = st.busy := rfl

@[simp] theorem withBusy_result (b : Bool) (st : Status) : (withBusy b st).result = st.result := rfl
@[simp] theorem withBusy_wrap (b : Bool) (st : Status) : (withBusy b st).wrap = st.wrap := rfl
@[simp] theorem withBusy_fault (b : Bool) (st : Status) : (withBusy b st).fault = st.fault := rfl
@[simp] theorem withBusy_fcause (b : Bool) (st : Status) : (withBusy b st).fcause = st.fcause := rfl
@[simp] theorem withBusy_busy (b : Bool) (st : Status) : (withBusy b st).busy = b := rfl

@[simp] theorem recordFault_result (c : FaultCause) (st : Status) : (recordFault c st).result = st.result := rfl
@[simp] theorem recordFault_wrap (c : FaultCause) (st : Status) : (recordFault c st).wrap = st.wrap := rfl
@[simp] theorem recordFault_fault (c : FaultCause) (st : Status) : (recordFault c st).fault = true := rfl
@[simp] theorem recordFault_fcause (c : FaultCause) (st : Status) : (recordFault c st).fcause = if st.fault then st.fcause else causeCode c := rfl
@[simp] theorem recordFault_busy (c : FaultCause) (st : Status) : (recordFault c st).busy = st.busy := rfl

@[simp] theorem nextEvent_req (s : State) : (nextEvent s).2.req = s.req := by unfold nextEvent; split <;> rfl
@[simp] theorem nextEvent_reqLen (s : State) : (nextEvent s).2.reqLen = s.reqLen := by unfold nextEvent; split <;> rfl
@[simp] theorem nextEvent_nowNtp (s : State) : (nextEvent s).2.nowNtp = s.nowNtp := by unfold nextEvent; split <;> rfl
@[simp] theorem nextEvent_resp (s : State) : (nextEvent s).2.resp = s.resp := by unfold nextEvent; split <;> rfl
@[simp] theorem nextEvent_respLen (s : State) : (nextEvent s).2.respLen = s.respLen := by unfold nextEvent; split <;> rfl
@[simp] theorem nextEvent_status (s : State) : (nextEvent s).2.status = s.status := by unfold nextEvent; split <;> rfl
@[simp] theorem nextEvent_ts (s : State) : (nextEvent s).2.ts = s.ts := by unfold nextEvent; split <;> rfl
@[simp] theorem nextEvent_latch (s : State) : (nextEvent s).2.latch = s.latch := by unfold nextEvent; split <;> rfl
@[simp] theorem nextEvent_clkSec (s : State) : (nextEvent s).2.clkSec = s.clkSec := by unfold nextEvent; split <;> rfl
@[simp] theorem nextEvent_clkNsec (s : State) : (nextEvent s).2.clkNsec = s.clkNsec := by unfold nextEvent; split <;> rfl
@[simp] theorem nextEvent_reads (s : State) : (nextEvent s).2.reads = s.reads := by unfold nextEvent; split <;> rfl

/-- With an empty script ENGINE has its turn (R220). -/
theorem nextEvent_nil (s : State) (h : s.script = []) : nextEvent s = (.engine, s) := by simp [nextEvent, h]

/-- The head of the script is the next event (R60). -/
theorem nextEvent_cons (s : State) (e : Event) (es : List Event) (h : s.script = e :: es) :
    nextEvent s = (e, { s with script := es }) := by simp [nextEvent, h]

end Sys2Proof.Machine
end

