-- ==== Sys2Proof/Laws/Registers.lean ====
section
/-! SUPPORT. The register map (R22) and what a HOST write can do (R54, R55). -/

namespace Sys2Proof.Machine

/-- A register's number names it (R22). -/
@[simp] theorem regOfNumber_regNumber (r : Reg) : regOfNumber (regNumber r) = some r := by
  cases r with
  | req n => simp [regOfNumber, regNumber]
  | resp n =>
    obtain ⟨n, hn⟩ := n
    have h : ¬ 0x40 + n < 48 ∧ 0x40 + n ≠ 0x30 ∧ 0x40 + n ≠ 0x31 ∧ 0x40 + n ≠ 0x32 ∧ 0x40 + n < 0x70 := by omega
    simp [regOfNumber, regNumber, h]
  | reqLen => rfl
  | nowNtp => rfl
  | cmd => rfl
  | respLen => rfl
  | status => rfl
  | ts => rfl

/-- A number names at most the register it is the number of (R22). -/
theorem regNumber_of_some (no : Nat) (r : Reg) (h : regOfNumber no = some r) : regNumber r = no := by
  unfold regOfNumber at h
  repeat' split at h
  all_goals first | (cases h; simp [regNumber]; omega) | (cases h; simp_all [regNumber]) | cases h

theorem regNumber_injective (r r' : Reg) (h : regNumber r = regNumber r') : r = r' := by
  have := congrArg regOfNumber h
  simpa using this

/-- The unassigned numbers (R22). -/
theorem regOfNumber_none (no : Nat) : regOfNumber no = none ↔ ((0x33 ≤ no ∧ no ≤ 0x3F) ∨ 0x73 ≤ no) := by
  unfold regOfNumber
  repeat' split
  all_goals simp
  all_goals omega

@[simp] theorem readNumber_regNumber (r : Reg) (s : State) : readNumber (regNumber r) s = regValue r s := by simp [readNumber]

@[simp] theorem writeNumber_regNumber (r : Reg) (v : AccessValue) (s : State) :
    writeNumber (regNumber r) v s = writeReg r v s := by simp [writeNumber]

theorem writeNumber_cmd (v : AccessValue) (s : State) : writeNumber 0x32 v s = issue (v.setWidth 8) s := rfl

theorem writeNumber_nowNtp (v : AccessValue) (s : State) : writeNumber 0x31 v s = { s with nowNtp := v } := rfl

/-- The issue of a word, by its cases (R36). -/
theorem issue_cases (c : Byte) (s : State) :
    (s.status.busy = true ∧ issue c s = raiseFault .issueWhileBusy s) ∨
    (s.status.busy = false ∧ c.extractLsb' 2 6 ≠ 0#6 ∧ issue c s = raiseFault .reservedCmd s) ∨
    (s.status.busy = false ∧ c.extractLsb' 2 6 = 0#6 ∧ issue c s = capture (c.extractLsb' 0 2) s) := by
  unfold issue
  cases hb : s.status.busy with
  | true => simp
  | false =>
    by_cases hc : c.extractLsb' 2 6 = 0#6
    · simp [decode_ok c hc, hc]
    · simp [decode_error c hc, hc]

/-- Everything a HOST write can do: store one operand register, issue, or nothing (R54, R55). -/
theorem writeNumber_cases (no : Nat) (v : AccessValue) (s : State) :
    (∃ n : Fin 48, no = n.val ∧ writeNumber no v s = { s with req := s.req.set n (v.setWidth 8) }) ∨
    (no = 0x30 ∧ writeNumber no v s = { s with reqLen := v.setWidth 16 }) ∨
    (no = 0x31 ∧ writeNumber no v s = { s with nowNtp := v }) ∨
    (no = 0x32 ∧ writeNumber no v s = issue (v.setWidth 8) s) ∨
    writeNumber no v s = s := by
  unfold writeNumber
  cases hr : regOfNumber no with
  | none => simp
  | some r =>
    have hn := regNumber_of_some no r hr
    cases r with
    | req n => exact .inl ⟨n, by simpa [regNumber] using hn.symm, rfl⟩
    | reqLen => simp [writeReg, ← hn, regNumber]
    | nowNtp => simp [writeReg, ← hn, regNumber]
    | cmd => simp [writeReg, ← hn, regNumber]
    | resp n => simp [writeReg]
    | respLen => simp [writeReg]
    | status => simp [writeReg]
    | ts => simp [writeReg]

end Sys2Proof.Machine
end

