-- ==== Sys2Proof/Laws/Timestamp.lean ====
section
/-! SUPPORT. What NTP_FROM_CLOCK can answer (R120 to R126). -/

namespace Sys2Proof.Machine

/-- A legal sample is converted (R125). -/
theorem ntpFromClock_ok (sec : BitVec 64) (nsec : BitVec 32) (h : nsec.toNat < 1000000000) :
    ntpFromClock sec nsec = .ok (ntpSeconds sec ++ ntpFraction nsec, wrapOf sec) := by
  simp [ntpFromClock, nsecPerSec, h]

/-- A sample of 10^9 nanoseconds or more is NSEC_RANGE (R124). -/
theorem ntpFromClock_error (sec : BitVec 64) (nsec : BitVec 32) (h : 1000000000 ≤ nsec.toNat) :
    ntpFromClock sec nsec = .error .nsecRange := by
  simp [ntpFromClock, nsecPerSec, h]

/-- The fraction of a legal nanosecond count fits 32 bits (R122). -/
theorem fraction_lt (n : Nat) (h : n < 1000000000) : n * 2 ^ 32 / 1000000000 ≤ 0xFFFFFFFB := by omega

/-- The fraction field is the exact floor (R122). -/
theorem ntpFraction_toNat (nsec : BitVec 32) (h : nsec.toNat < 1000000000) :
    (ntpFraction nsec).toNat = nsec.toNat * 2 ^ 32 / 1000000000 := by
  have := fraction_lt nsec.toNat h
  simp only [ntpFraction, nsecPerSec, BitVec.toNat_ofNat]
  omega

/-- The fraction of the next nanosecond is 4 or 5 units later (R126). -/
theorem fraction_succ (n : Nat) :
    (n + 1) * 2 ^ 32 / 1000000000 = n * 2 ^ 32 / 1000000000 + 4 ∨
    (n + 1) * 2 ^ 32 / 1000000000 = n * 2 ^ 32 / 1000000000 + 5 := by omega

/-- The fraction is strictly increasing (R126). -/
theorem fraction_strictMono (a b : Nat) (h : a < b) : a * 2 ^ 32 / 1000000000 < b * 2 ^ 32 / 1000000000 := by omega

/-- The seconds field as a natural number (R121). -/
theorem ntpSeconds_toNat (sec : BitVec 64) : ((ntpSeconds sec).toNat : Int) = (sec.toInt + 2208988800) % 2 ^ 32 := by
  rw [ntpSeconds, BitVec.toNat_ofInt, secondsMath, ntpEpochOffset]
  omega

/-- Reduction modulo 2^32 commutes with addition: only the low 32 bits of sec matter (R121). -/
theorem ntpSeconds_low (sec : BitVec 64) : ntpSeconds sec = sec.extractLsb' 0 32 + 0x83AA7E80#32 := by
  apply BitVec.eq_of_toNat_eq
  have h := ntpSeconds_toNat sec
  have hs := BitVec.toInt_eq_toNat_cond sec
  rw [BitVec.toNat_add, BitVec.extractLsb'_toNat, BitVec.toNat_ofNat, Nat.shiftRight_zero]
  split at hs <;> omega

/-- The upper part of a concatenation. -/
theorem concat_high {v w : Nat} (a : BitVec v) (b : BitVec w) : (a ++ b).extractLsb' w v = a := by
  apply BitVec.eq_of_getLsbD_eq; intro i hi; simp [BitVec.getLsbD_append, hi]

/-- The lower part of a concatenation. -/
theorem concat_low {v w : Nat} (a : BitVec v) (b : BitVec w) : (a ++ b).extractLsb' 0 w = b := by
  apply BitVec.eq_of_getLsbD_eq; intro i hi; simp [BitVec.getLsbD_append, hi]

/-- The seconds half of a timestamp (R76). -/
theorem stamp_seconds (a b : BitVec 32) : (a ++ b : BitVec 64).extractLsb' 32 32 = a := concat_high a b

/-- The fraction half of a timestamp (R76). -/
theorem stamp_fraction (a b : BitVec 32) : (a ++ b : BitVec 64).extractLsb' 0 32 = b := concat_low a b

end Sys2Proof.Machine
end

