-- ==== Sys2Proof/Laws/Step.lean ====
section
/-! SUPPORT. What a completion and a step can do, said once: later proofs cite these lemmas and unfold neither. -/

namespace Sys2Proof.Machine

/-- The timestamp of the latched sample (R121, R122). -/
@[irreducible] def stampOf (l : Latch) : NtpTimestamp := ntpSeconds l.clkSec ++ ntpFraction l.clkNsec

/-- The stamp by the spec's formulas (R121, R122). -/
theorem stampOf_eq (l : Latch) :
    stampOf l = BitVec.ofInt 32 (l.clkSec.toInt + 2208988800) ++ BitVec.ofNat 32 (l.clkNsec.toNat * 2 ^ 32 / 1000000000) := by
  unfold stampOf; rfl

theorem exec_val (s : State) : exec .val s = complete (setStatus (withResult (verdictCode (verdict s.latch))) s) := by
  simp [exec, execVal, withRead]

theorem exec_conv_legal (s : State) (h : s.latch.clkNsec.toNat < 1000000000) :
    exec .conv s = complete (setStatus (withWrap (wrapOf s.latch.clkSec)) { s with ts := stampOf s.latch }) := by
  simp [exec, execConv, ntpFromClock_ok _ _ h, stampOf]

theorem exec_conv_faults (s : State) (h : 1000000000 ≤ s.latch.clkNsec.toNat) :
    exec .conv s = complete (raiseFault .nsecRange s) := by
  simp [exec, execConv, ntpFromClock_error _ _ h]

theorem exec_bld_accepted (s : State) (h : RequestAccepted s.latch) :
    exec .bld s = complete (setStatus (withResult resultOk) (setResponse (replyOf s.latch s.latch.nowNtp) 48 s)) := by
  simp [exec, execBld, withRead, (verdict_ok_iff s.latch).2 h, buildPacket_eq _ _ h.1]

theorem exec_bld_rejected (s : State) (h : ¬ RequestAccepted s.latch) :
    exec .bld s = complete (bldFaults .buildPrecondition s) := by
  have hv : verdict s.latch ≠ .ok := fun h' => h ((verdict_ok_iff s.latch).1 h')
  cases hv' : verdict s.latch <;> simp_all [exec, execBld, withRead]

theorem exec_vb_accepted (s : State) (h : RequestAccepted s.latch) (hn : s.latch.clkNsec.toNat < 1000000000) :
    exec .vb s = complete (setStatus (fun st => withWrap (wrapOf s.latch.clkSec) (withResult resultOk st))
      (setResponse (replyOf s.latch (stampOf s.latch)) 48 s)) := by
  simp [exec, execVb, withRead, (verdict_ok_iff s.latch).2 h, buildPacket_eq _ _ h.1, ntpFromClock_ok _ _ hn, stampOf]

theorem exec_vb_rejected (s : State) (h : ¬ RequestAccepted s.latch) :
    exec .vb s = complete (vbRejects (verdict s.latch) s) := by
  have hv : verdict s.latch ≠ .ok := fun h' => h ((verdict_ok_iff s.latch).1 h')
  cases hv' : verdict s.latch <;> simp_all [exec, execVb, withRead]

theorem exec_vb_faults (s : State) (h : RequestAccepted s.latch) (hn : 1000000000 ≤ s.latch.clkNsec.toNat) :
    exec .vb s = complete (vbFaults .nsecRange s) := by
  simp [exec, execVb, withRead, (verdict_ok_iff s.latch).2 h, ntpFromClock_error _ _ hn]

/-- Everything a completion can do (R38, R110, R130, R150, R160, R173). -/
theorem exec_cases (i : Instr) (s : State) :
    (i = .val ∧ exec i s = complete (setStatus (withResult (verdictCode (verdict s.latch))) s)) ∨
    (i = .conv ∧ s.latch.clkNsec.toNat < 1000000000 ∧
      exec i s = complete (setStatus (withWrap (wrapOf s.latch.clkSec)) { s with ts := stampOf s.latch })) ∨
    (i = .conv ∧ 1000000000 ≤ s.latch.clkNsec.toNat ∧ exec i s = complete (raiseFault .nsecRange s)) ∨
    (i = .bld ∧ RequestAccepted s.latch ∧
      exec i s = complete (setStatus (withResult resultOk) (setResponse (replyOf s.latch s.latch.nowNtp) 48 s))) ∨
    (i = .bld ∧ ¬ RequestAccepted s.latch ∧ exec i s = complete (bldFaults .buildPrecondition s)) ∨
    (i = .vb ∧ RequestAccepted s.latch ∧ s.latch.clkNsec.toNat < 1000000000 ∧
      exec i s = complete (setStatus (fun st => withWrap (wrapOf s.latch.clkSec) (withResult resultOk st))
        (setResponse (replyOf s.latch (stampOf s.latch)) 48 s))) ∨
    (i = .vb ∧ ¬ RequestAccepted s.latch ∧ exec i s = complete (vbRejects (verdict s.latch) s)) ∨
    (i = .vb ∧ RequestAccepted s.latch ∧ 1000000000 ≤ s.latch.clkNsec.toNat ∧
      exec i s = complete (vbFaults .nsecRange s)) := by
  have hn := Nat.lt_or_ge s.latch.clkNsec.toNat 1000000000
  have ha := Decidable.em (RequestAccepted s.latch)
  cases i with
  | val => exact .inl ⟨rfl, exec_val s⟩
  | conv =>
    rcases hn with hn | hn
    · exact .inr (.inl ⟨rfl, hn, exec_conv_legal s hn⟩)
    · exact .inr (.inr (.inl ⟨rfl, hn, exec_conv_faults s hn⟩))
  | bld =>
    rcases ha with ha | ha
    · exact .inr (.inr (.inr (.inl ⟨rfl, ha, exec_bld_accepted s ha⟩)))
    · exact .inr (.inr (.inr (.inr (.inl ⟨rfl, ha, exec_bld_rejected s ha⟩))))
  | vb =>
    rcases ha with ha | ha
    · rcases hn with hn | hn
      · exact .inr (.inr (.inr (.inr (.inr (.inl ⟨rfl, ha, hn, exec_vb_accepted s ha hn⟩)))))
      · exact .inr (.inr (.inr (.inr (.inr (.inr (.inr ⟨rfl, ha, hn, exec_vb_faults s ha hn⟩))))))
    · exact .inr (.inr (.inr (.inr (.inr (.inr (.inl ⟨rfl, ha, exec_vb_rejected s ha⟩))))))

/-- What a completion does to the fault record, and when (R172, R176, R177). -/
theorem exec_faultRecord (i : Instr) (s t : State) (h : exec i s = .next t) :
    (t.status.fault = s.status.fault ∧ t.status.fcause = s.status.fcause) ∨
    ∃ c, t.status.fault = true ∧ t.status.fcause = (if s.status.fault then s.status.fcause else causeCode c) ∧
      ((c = .nsecRange ∧ 1000000000 ≤ s.latch.clkNsec.toNat ∧ (i = .conv ∨ (i = .vb ∧ RequestAccepted s.latch))) ∨
       (c = .buildPrecondition ∧ i = .bld ∧ ¬ RequestAccepted s.latch)) := by
  rcases exec_cases i s with ⟨-, h'⟩ | ⟨-, -, h'⟩ | ⟨hi, hn, h'⟩ | ⟨-, -, h'⟩ | ⟨hi, ha, h'⟩ | ⟨-, -, -, h'⟩ | ⟨-, -, h'⟩ |
    ⟨hi, ha, hn, h'⟩ <;> (rw [h'] at h; cases h)
  · exact .inl ⟨rfl, rfl⟩
  · exact .inl ⟨rfl, rfl⟩
  · exact .inr ⟨.nsecRange, rfl, rfl, .inl ⟨rfl, hn, .inl hi⟩⟩
  · exact .inl ⟨rfl, rfl⟩
  · exact .inr ⟨.buildPrecondition, rfl, rfl, .inr ⟨rfl, hi, ha⟩⟩
  · exact .inl ⟨rfl, rfl⟩
  · exact .inl ⟨rfl, rfl⟩
  · exact .inr ⟨.nsecRange, rfl, rfl, .inl ⟨rfl, hn, .inr ⟨hi, ha⟩⟩⟩

/-- A completion goes the same way whatever the operand registers hold and whatever is still to happen (R32, R62). -/
theorem exec_operands (i : Instr) (s t : State) (x : ByteFile) (n : BitVec 16) (m : NtpTimestamp) (l : List Event)
    (h : exec i s = .next t) :
    exec i { s with req := x, reqLen := n, nowNtp := m, script := l } =
      .next { t with req := x, reqLen := n, nowNtp := m, script := l } := by
  generalize hu : ({ s with req := x, reqLen := n, nowNtp := m, script := l } : State) = u
  have hl : u.latch = s.latch := by subst hu; rfl
  rcases exec_cases i s with ⟨rfl, h'⟩ | ⟨rfl, hn, h'⟩ | ⟨rfl, hn, h'⟩ | ⟨rfl, ha, h'⟩ | ⟨rfl, ha, h'⟩ | ⟨rfl, ha, hn, h'⟩ |
    ⟨rfl, ha, h'⟩ | ⟨rfl, ha, hn, h'⟩ <;> (rw [h'] at h; cases h)
  · rw [exec_val u, hl]; subst hu; rfl
  · rw [exec_conv_legal u (hl ▸ hn), hl]; subst hu; rfl
  · rw [exec_conv_faults u (hl ▸ hn)]; subst hu; rfl
  · rw [exec_bld_accepted u (hl ▸ ha), hl]; subst hu; rfl
  · rw [exec_bld_rejected u (hl ▸ ha)]; subst hu; rfl
  · rw [exec_vb_accepted u (hl ▸ ha) (hl ▸ hn), hl]; subst hu; rfl
  · rw [exec_vb_rejected u (hl ▸ ha), hl]; subst hu; rfl
  · rw [exec_vb_faults u (hl ▸ ha) (hl ▸ hn)]; subst hu; rfl

/-- A step performs the head of the script. -/
theorem step_cons (s : State) (e : Event) (es : List Event) (h : s.script = e :: es) :
    step s = perform e { s with script := es } := by simp [step, nextEvent_cons s e es h]

/-- With nothing left to happen from outside, a step is ENGINE's turn. -/
theorem step_nil (s : State) (h : s.script = []) : step s = engineTurn s := by simp [step, nextEvent_nil s h, perform]

/-- A step is the next event, whether scripted or ENGINE's own turn. -/
theorem step_head (s : State) (e : Event) (h : s.script.head? = some e ∨ (s.script = [] ∧ e = .engine)) :
    ∃ es, step s = perform e { s with script := es } := by
  rcases h with h | ⟨h, rfl⟩
  · cases hs : s.script with
    | nil => simp [hs] at h
    | cons a as =>
      simp only [hs, List.head?_cons, Option.some.injEq] at h
      subst h
      exact ⟨as, step_cons s a as hs⟩
  · refine ⟨[], ?_⟩
    rw [step_nil s h, perform]
    cases s; simp_all

theorem engineTurn_busy (s : State) (h : s.status.busy = true) : engineTurn s = exec (commandOfOp s.latch.op) s := by
  simp [engineTurn, h]

theorem engineTurn_idle (s : State) (h : s.status.busy = false) : engineTurn s = .next s := by simp [engineTurn, h]

theorem pollStatus_idle (s : State) (h : s.status.busy = false) : pollStatus s = hostRead 0x71 s := by
  simp [pollStatus, h, regNumber]

theorem pollStatus_busy (s : State) (h : s.status.busy = true) :
    pollStatus s = { hostRead 0x71 s with script := .engine :: .wait :: s.script } := by
  simp [pollStatus, h, regNumber]

/-- The issue of a legal command on an idle block, as a step (R36, R82 `cmd`). -/
theorem step_cmd (i : Instr) (s : State) (es : List Event) (hs : s.script = cmdEvent i :: es) (hb : s.status.busy = false) :
    step s = .next (capture ((encode i).extractLsb' 0 2) { s with script := es }) := by
  rw [step_cons s _ es hs]
  have hw : ((encode i).setWidth 64).setWidth 8 = encode i := by simp
  simp only [cmdEvent, wrName, perform, writeNumber_regNumber, writeReg, hw]
  rcases issue_cases (encode i) { s with script := es } with ⟨hb', -⟩ | ⟨-, hr, -⟩ | ⟨-, -, h⟩
  · exact absurd (hb.symm.trans hb') (by decide)
  · exact absurd (encode_reserved_zero i) hr
  · rw [h]

/-- A poll writes no register of the block (R55). -/
theorem pollStatus_registers (s : State) :
    (pollStatus s).req = s.req ∧ (pollStatus s).reqLen = s.reqLen ∧ (pollStatus s).nowNtp = s.nowNtp ∧
    (pollStatus s).resp = s.resp ∧ (pollStatus s).respLen = s.respLen ∧ (pollStatus s).status = s.status ∧
    (pollStatus s).ts = s.ts ∧ (pollStatus s).latch = s.latch := by
  cases hb : s.status.busy with
  | true => rw [pollStatus_busy s hb]; exact ⟨rfl, rfl, rfl, rfl, rfl, rfl, rfl, rfl⟩
  | false => rw [pollStatus_idle s hb]; exact ⟨rfl, rfl, rfl, rfl, rfl, rfl, rfl, rfl⟩

theorem step_wr (no : Nat) (v : AccessValue) (s : State) (es : List Event) (hs : s.script = .wr no v :: es) :
    step s = .next (writeNumber no v { s with script := es }) := step_cons s _ es hs

theorem step_rd (no : Nat) (s : State) (es : List Event) (hs : s.script = .rd no :: es) :
    step s = .next (hostRead no { s with script := es }) := step_cons s _ es hs

theorem step_wait (s : State) (es : List Event) (hs : s.script = .wait :: es) :
    step s = .next (pollStatus { s with script := es }) := step_cons s _ es hs

theorem step_clk (a : BitVec 64) (b : BitVec 32) (s : State) (es : List Event) (hs : s.script = .clk a b :: es) :
    step s = .next (driveClock a b { s with script := es }) := step_cons s _ es hs

theorem step_reset (s : State) (es : List Event) (hs : s.script = .reset :: es) :
    step s = .next (applyReset { s with script := es }) := step_cons s _ es hs

/-- A scripted turn of ENGINE on a busy block, as a step (R38). -/
theorem step_engine (s : State) (es : List Event) (hs : s.script = .engine :: es) (hb : s.status.busy = true) :
    step s = exec (commandOfOp s.latch.op) { s with script := es } := by
  rw [step_cons s _ es hs]
  exact engineTurn_busy { s with script := es } hb

/-- One step of a run of any core: the next state, a fault or a refusal. -/
theorem coreRun_next (M : Host.Core) (k : Nat) (s t : M.State) (h : M.step s = .next t) : M.run (k + 1) s = M.run k t := by
  simp [Host.Core.run, h]

theorem coreRun_fault (M : Host.Core) (k : Nat) (s : M.State) (f : M.Fault) (h : M.step s = .fault f) :
    M.run (k + 1) s = .fault f := by simp [Host.Core.run, h]

theorem coreRun_refused (M : Host.Core) (k : Nat) (s : M.State) (r : M.Refusal) (h : M.step s = .refused r) :
    M.run (k + 1) s = .refused r := by simp [Host.Core.run, h]

@[simp] theorem steps_zero (s : State) : steps 0 s = .next s := rfl

/-- A run goes on from the next state. -/
theorem steps_succ (k : Nat) (s t : State) (h : step s = .next t) : steps (k + 1) s = steps k t := coreRun_next core k s t h

/-- An issue on an idle block and ENGINE's turn after it: the command completes on the operands of the issue (R36, R38). -/
theorem steps_command (i : Instr) (s t : State) (es : List Event) (k : Nat) (hs : s.script = cmdEvent i :: .engine :: es)
    (hb : s.status.busy = false) (he : exec i (capture ((encode i).extractLsb' 0 2) { s with script := es }) = .next t) :
    steps (k + 2) s = steps k t := by
  rw [steps_succ (k + 1) s _ (step_cmd i s _ hs hb)]
  refine steps_succ k _ t ((step_engine _ es rfl rfl).trans ?_)
  rw [capture_latch, latchOf, commandOfOp_encode]
  exact he

/-- Runs compose. -/
theorem steps_add (j k : Nat) (s t : State) (h : steps j s = .next t) : steps (j + k) s = steps k t := by
  induction j generalizing s with
  | zero => simp only [steps_zero, Host.Outcome.next.injEq] at h; simp [h]
  | succ j ih =>
    rw [Nat.succ_add]
    cases hs : step s with
    | next u => rw [steps_succ _ s u hs]; exact ih u ((steps_succ j s u hs).symm.trans h)
    | fault f => exact nomatch (coreRun_fault core j s f hs).symm.trans h
    | refused r => exact nomatch (coreRun_refused core j s r hs).symm.trans h

end Sys2Proof.Machine
end

