-- ==== Sys2Proof/Tests/Slice0.lean ====
section
/-! SUPPORT. The model's own tests. Expected values are the spec's: 95_test_vectors.md (by section), the corner cases of R110,
R130, R150, R160 and the tables of R22, R70 and R81. Then one witness for the hypotheses of each statement that has some. -/

namespace Sys2Proof.Tests

open Sys2Proof.Machine

/-! ## Small states -/

/-- The next state, if there is one. -/
def nextOf : Host.Outcome State Fault Refusal → Option State
  | .next s => some s
  | .fault _ => none
  | .refused _ => none

/-- An idle block as after reset, with REQ0, REQ_LEN, the ports and the script given. -/
def idle (b : Byte) (len : BitVec 16) (sec : BitVec 64) (nsec : BitVec 32) (script : List Event := []) : State :=
  { State.reset with req := ByteFile.zeros.set 0 b, reqLen := len, clkSec := sec, clkNsec := nsec, script := script }

/-- The same block with the command `i` issued. -/
def busy (i : Instr) (b : Byte) (len : BitVec 16) (sec : BitVec 64) (nsec : BitVec 32) (script : List Event := []) : State :=
  capture ((encode i).extractLsb' 0 2) (idle b len sec nsec script)

/-- An idle block whose REQ40 … REQ47 and NOW_NTP are given too. -/
def loaded (b : Byte) (o : Vector Byte 8) (now : NtpTimestamp) (sec : BitVec 64) (nsec : BitVec 32) : State :=
  { idle b 48 sec nsec with
    req := Vector.ofFn fun i : Fin 48 => if i.val = 0 then b else if h : 40 ≤ i.val then o[i.val - 40] else 0x00,
    nowNtp := now }

/-- A completion's STATUS word. -/
def statusAfter (i : Instr) (s : State) : Option Byte := (nextOf (exec i s)).map fun t => t.status.toWord

/-! ## Well-formedness: an ill-formed term for each check -/

theorem test_wf_refuses_reserved_word : CmdWord.wf 0x04 = false := by decide
theorem test_wf_refuses_wide_octet : Event.wf (.wr 0x00 0x100) = false := by decide
theorem test_wf_refuses_wide_length : Event.wf (.wr 0x30 0x10000) = false := by decide
theorem test_wf_accepts_timestamp : Event.wf (.wr 0x31 0xFFFFFFFFFFFFFFFF) = true := by decide
theorem test_wf_refuses_empty_ldreq : ldreqWf [] = false := by decide
theorem test_wf_refuses_49_octets : ldreqWf (List.replicate 49 0x00) = false := by decide

/-! ## Decoding: the words of R70 bit by bit, and the smallest and the largest reserved word of R81 -/

theorem test_decode_vb : decode 0b00000000#8 = .ok .vb := by rfl
theorem test_decode_val : decode 0b00000001#8 = .ok .val := by rfl
theorem test_decode_bld : decode 0b00000010#8 = .ok .bld := by rfl
theorem test_decode_conv : decode 0b00000011#8 = .ok .conv := by rfl
theorem test_decode_smallest_reserved : decode 0x04#8 = .error (.reservedCmd 0x04) := by rfl
theorem test_decode_largest_reserved : decode 0xFF#8 = .error (.reservedCmd 0xFF) := by rfl
theorem test_decodeTableWord : [0, 1, 2, 3, 4].map (decodeTableWord 8) = [some .vb, some .val, some .bld, some .conv, none] := by decide

/-- A placed word runs as the first instruction after reset (R202: VB reports MALFORMED, STATUS 0x02). -/
theorem test_first_instruction_vb : (nextOf (step (State.reset.withFetchWord 8 0))).map (fun t => t.status.toWord) = some 0x02 := by decide
theorem test_first_instruction_val : (nextOf (step (State.reset.withFetchWord 8 1))).map (fun t => t.status.toWord) = some 0x02 := by decide
theorem test_first_instruction_bld : (nextOf (step (State.reset.withFetchWord 8 2))).map (fun t => t.status.toWord) = some 0x48 := by decide
theorem test_first_instruction_conv : (nextOf (step (State.reset.withFetchWord 8 3))).map (fun t => t.ts) = some 0x83AA7E8000000000 := by decide
theorem test_placed_reserved_word : (nextOf (step (State.reset.withFetchWord 8 4))).map (fun t => t.status.toWord) = some 0x28 := by decide

/-! ## The register map (R22) at the ends of its ranges -/

theorem test_register_map : [0x00, 0x2F, 0x30, 0x31, 0x32, 0x33, 0x3F, 0x40, 0x6F, 0x70, 0x71, 0x72, 0x73, 0x100].map regOfNumber =
    [some (.req 0), some (.req 47), some .reqLen, some .nowNtp, some .cmd, none, none, some (.resp 0), some (.resp 47),
     some .respLen, some .status, some .ts, none, none] := by decide

/-! ## The four commands (95 sections 2.1 to 2.4) -/

theorem test_val_47_octets : statusAfter .val (busy .val 0x1B 47 0 0) = some 0x02 := by decide
theorem test_val_li3 : statusAfter .val (busy .val 0xDB 65535 0 0) = some 0x01 := by decide

theorem test_conv_fraction : (nextOf (exec .conv (busy .conv 0 0 1700000000 123456789))).map (fun t => (t.ts, t.status.toWord)) =
    some (0xE8FE6F801F9ADD37, 0x00) := by decide
theorem test_conv_before_epoch : (nextOf (exec .conv (busy .conv 0 0 (BitVec.ofInt 64 (-2208988801)) 0))).map
    (fun t => (t.ts, t.status.toWord)) = some (0xFFFFFFFF00000000, 0x04) := by decide

theorem test_bld_vector : (nextOf (exec .bld (capture 2 (loaded 0x23 #v[1, 2, 3, 4, 5, 6, 7, 8] 0x83AA7E8080000000 0 0)))).map
    (fun t => (t.resp.toList, t.respLen, t.status.toWord)) =
    some ([0x24, 0x01, 0x04, 0x81, 0, 0, 0, 0, 0, 0, 0, 0, 0x4C, 0x4F, 0x43, 0x4C, 0x83, 0xAA, 0x7E, 0x80, 0x80, 0, 0, 0,
           1, 2, 3, 4, 5, 6, 7, 8, 0x83, 0xAA, 0x7E, 0x80, 0x80, 0, 0, 0, 0x83, 0xAA, 0x7E, 0x80, 0x80, 0, 0, 0], 48, 0x01) := by decide
theorem test_bld_mode4 : (nextOf (exec .bld (busy .bld 0x1C 48 0 0))).map (fun t => (t.resp, t.respLen, t.status.toWord)) =
    some (ByteFile.zeros, 0, 0x48) := by decide

theorem test_vb_vector : (nextOf (exec .vb (capture 0
      (loaded 0x1B #v[0xDE, 0xAD, 0xBE, 0xEF, 0x01, 0x23, 0x45, 0x67] 0 1700000000 123456789)))).map
    (fun t => (t.resp.toList, t.respLen, t.status.toWord)) =
    some ([0x1C, 0x01, 0x04, 0x81, 0, 0, 0, 0, 0, 0, 0, 0, 0x4C, 0x4F, 0x43, 0x4C, 0xE8, 0xFE, 0x6F, 0x80, 0x1F, 0x9A, 0xDD, 0x37,
           0xDE, 0xAD, 0xBE, 0xEF, 0x01, 0x23, 0x45, 0x67, 0xE8, 0xFE, 0x6F, 0x80, 0x1F, 0x9A, 0xDD, 0x37,
           0xE8, 0xFE, 0x6F, 0x80, 0x1F, 0x9A, 0xDD, 0x37], 48, 0x01) := by decide
theorem test_vb_nsec_range : statusAfter .vb (busy .vb 0x1B 48 5 1000000000) = some 0x38 := by decide

/-! ## Issue, fault record and reset (95 section 2.5) -/

/-- STATUS after one step. -/
def statusOfStep (s : State) : Option Byte := (nextOf (step s)).map fun t => t.status.toWord

theorem test_issue_vb : statusOfStep (idle 0 0 0 0 [.wr 0x32 0x00]) = some 0x80 := by decide
theorem test_issue_reserved : statusOfStep (idle 0 0 0 0 [.wr 0x32 0x80]) = some 0x28 := by decide
theorem test_issue_while_busy :
    statusOfStep { idle 0 0 0 0 [.wr 0x32 0x01] with status := ⟨3, false, false, 0, true⟩ } = some 0x9B := by decide
theorem test_second_fault_keeps_cause :
    statusOfStep { idle 0 0 0 0 [.wr 0x32 0x80] with status := ⟨1, false, true, 1, false⟩ } = some 0x19 := by decide
theorem test_reset_discards : statusOfStep { busy .vb 0x1B 48 0 0 [.reset] with status := ⟨3, true, true, 3, true⟩ } = some 0x00 := by decide
theorem test_write_status_ignored : statusOfStep (idle 0 0 0 0 [.wr 0x71 0xFF]) = some 0x00 := by decide
theorem test_read_unassigned : (nextOf (step (idle 0 0 0 0 [.rd 0x33]))).map (fun t => t.reads) = some [⟨0x33, 0⟩] := by decide
theorem test_ldreq_expands : ldreq [0x1B, 0x00] = [.wr 0x00 0x1B, .wr 0x01 0x00] := by decide

/-! ## Witnesses: states and operands that meet the hypotheses of each statement -/

theorem witness_DecodeOfEncodeIsTheCommand : Instr.wf .conv = true ∧ decode 0x03 = .ok .conv := ⟨rfl, rfl⟩
theorem witness_ReservedCommandWordsRefused : (0x04#8).extractLsb' 2 6 ≠ 0#6 ∧ (0x03#8).extractLsb' 2 6 = 0#6 := by decide
theorem witness_OperandWriteStoresOneRegister :
    regAccess (.req 0) = .readWrite ∧ regAccess (.req 47) = .readWrite ∧ regAccess .reqLen = .readWrite ∧
    regAccess .nowNtp = .readWrite ∧ (Reg.req 46) ≠ .req 47 := by decide
theorem witness_ReadOnlyAndUnassignedWritesIgnored :
    ∀ no ∈ [0x33, 0x3F, 0x40, 0x6F, 0x70, 0x71, 0x72, 0x73], (0x33 ≤ no ∧ no ≤ 0x3F) ∨ (0x40 ≤ no ∧ no ≤ 0x6F) ∨ no = 0x70 ∨
      no = 0x71 ∨ no = 0x72 ∨ 0x73 ≤ no := by decide
theorem witness_ReadReturnsRegisterWithoutSideEffect :
    0x2F = (47 : Fin 48).val ∧ 0x6F = 0x40 + (47 : Fin 48).val ∧ (0x33 ≤ 0x33 ∧ 0x33 ≤ 0x3F) ∧ 0x73 ≤ 0x73 := by decide
theorem witness_busy_and_idle : (busy .vb 0x1B 48 0 0).status.busy = true ∧ (idle 0x1B 48 0 0).status.busy = false := by decide
theorem witness_IssueDoesExactlyOneOfThree :
    (busy .vb 0 0 0 0).status.busy = true ∧
    ((idle 0 0 0 0).status.busy = false ∧ (0x04#8).extractLsb' 2 6 ≠ 0#6) ∧
    ((idle 0 0 0 0).status.busy = false ∧ (0x03#8).extractLsb' 2 6 = 0#6) := by decide
theorem witness_StepRunsTheDecodedCommand :
    ((busy .bld 0 0 0 0).status.busy = true ∧ (busy .bld 0 0 0 0).script = []) ∧
    ((idle 0 0 0 0).status.busy = false ∧ (decode 0x02).toOption = some .bld) := by decide
theorem witness_IdleBlockKeepsItsState : (idle 0 0 0 0).status.busy = false ∧ (idle 0 0 0 0).script = [] := by decide
theorem witness_EightHeaderBytesAccepted :
    48 ≤ (busy .val 0xE3 48 0 0).latch.reqLen.toNat ∧ ∃ t, exec .val (busy .val 0xE3 48 0 0) = .next t := ⟨by decide, _, rfl⟩
theorem witness_legal_sample :
    (busy .conv 0 0 0 999999999).latch.clkNsec.toNat < 1000000000 ∧ ∃ t, exec .conv (busy .conv 0 0 0 999999999) = .next t :=
  ⟨by decide, _, rfl⟩
theorem witness_ConvFaultsOnNanosecondRange : 1000000000 ≤ (busy .conv 0 0 0 1000000000).latch.clkNsec.toNat := by decide
theorem witness_FractionLaws : 999999998 < 999999999 ∧ 999999999 ≤ 999999999 ∧ (0 : Nat) < 999999999 := by decide
theorem witness_EraBoundaries :
    ∀ x ∈ [0, -2208988800, 2085978495, 2085978496, -2208988801],
      (busy .conv 0 0 (BitVec.ofInt 64 x) 0).latch.clkSec.toInt = x ∧ (busy .conv 0 0 (BitVec.ofInt 64 x) 0).latch.clkNsec.toNat < 1000000000 := by
  decide
theorem witness_request_accepted :
    RequestAccepted (busy .bld 0x0B 48 0 0).latch ∧ RequestAccepted (busy .bld 0xE3 65535 0 0).latch := by decide
theorem witness_request_rejected :
    ¬ RequestAccepted (busy .bld 0x1B 47 0 0).latch ∧ ¬ RequestAccepted (busy .bld 0x2B 48 0 0).latch := by decide
theorem witness_VbBuildsTheReply :
    RequestAccepted (busy .vb 0x23 48 0 999999999).latch ∧ (busy .vb 0x23 48 0 999999999).latch.clkNsec.toNat < 1000000000 := by decide
theorem witness_VbFaultsOnNanosecondRange :
    RequestAccepted (busy .vb 0x23 48 0 1000000000).latch ∧ 1000000000 ≤ (busy .vb 0x23 48 0 1000000000).latch.clkNsec.toNat := by decide
theorem witness_VbEqualsConvThenBld :
    (idle 0 0 5 7).status.busy = false ∧ (idle 0 0 5 7).clkNsec.toNat < 1000000000 ∧
    (idle 0x1B 48 0 0).status.busy = false ∧ 48 ≤ (idle 0x1B 48 0 0).reqLen.toNat ∧ HeaderAccepted (idle 0x1B 48 0 0).req[0] ∧
    (idle 0x1B 48 5 7).status.busy = false ∧ (idle 0x1B 48 5 7).req = (idle 0x1B 48 0 0).req ∧
    (idle 0x1B 48 5 7).reqLen = (idle 0x1B 48 0 0).reqLen ∧ (idle 0x1B 48 5 7).clkSec = (idle 0 0 5 7).clkSec ∧
    (idle 0x1B 48 5 7).clkNsec = (idle 0 0 5 7).clkNsec ∧
    ∃ c u v, steps 2 { idle 0 0 5 7 with script := [cmdEvent .conv, .engine] } = .next c ∧
      steps 3 { idle 0x1B 48 0 0 with script := [.wr 0x31 c.ts, cmdEvent .bld, .engine] } = .next u ∧
      steps 2 { idle 0x1B 48 5 7 with script := [cmdEvent .vb, .engine] } = .next v :=
  ⟨by decide, by decide, by decide, by decide, by decide, by decide, by decide, by decide, by decide, by decide,
   _, _, _, rfl, rfl, rfl⟩
theorem witness_completions :
    (∃ t, exec .vb (busy .vb 0x1B 48 0 0) = .next t) ∧ (∃ t, exec .val (busy .val 0x1B 48 0 0) = .next t) ∧
    (∃ t, exec .bld (busy .bld 0x1B 48 0 0) = .next t) ∧ (∃ t, exec .conv (busy .conv 0 0 0 0) = .next t) :=
  ⟨⟨_, rfl⟩, ⟨_, rfl⟩, ⟨_, rfl⟩, ⟨_, rfl⟩⟩
theorem witness_OnlyCompletionsWriteResults :
    (busy .conv 0 0 0 0 [.engine]).script.head? = some .engine ∧
    (∃ t, step (busy .conv 0 0 0 0 [.engine]) = .next t ∧ t.ts ≠ (busy .conv 0 0 0 0).ts) ∧
    (∃ t, step (busy .vb 0x1B 48 0 0) = .next t ∧ t.respLen ≠ (busy .vb 0x1B 48 0 0).respLen) :=
  ⟨rfl, ⟨_, rfl, by decide⟩, ⟨_, rfl, by decide⟩⟩
theorem witness_OtherRequestOctetsAreNotRead :
    (busy .vb 0x1B 47 0 0).latch.reqLen.toNat < 48 ∧
    (((busy .vb 0x1B 48 0 0).latch.req.set 39 0xFF)[0] = (busy .vb 0x1B 48 0 0).latch.req[0] ∧
      ∀ k : Fin 8, ((busy .vb 0x1B 48 0 0).latch.req.set 39 0xFF)[40 + k.val] = (busy .vb 0x1B 48 0 0).latch.req[40 + k.val]) := by decide
theorem witness_ResponsesAreDeterministic :
    (busy .vb 0x1B 48 5 7).latch.reqLen = (busy .bld 0x1B 48 5 7).latch.reqLen ∧
    (busy .vb 0x1B 48 5 7).latch.req[0] = (busy .bld 0x1B 48 5 7).latch.req[0] ∧
    (∀ k : Fin 8, (busy .vb 0x1B 48 5 7).latch.req[40 + k.val] = (busy .bld 0x1B 48 5 7).latch.req[40 + k.val]) ∧
    (busy .vb 0x1B 48 5 7).latch.clkSec = (busy .bld 0x1B 48 5 7).latch.clkSec ∧
    (busy .vb 0x1B 48 5 7).latch.clkNsec = (busy .bld 0x1B 48 5 7).latch.clkNsec ∧
    (busy .vb 0x1B 48 5 7).latch.nowNtp = (busy .bld 0x1B 48 5 7).latch.nowNtp ∧
    (busy .vb 0x1B 48 5 7).latch ≠ (busy .bld 0x1B 48 5 7).latch := by decide
theorem witness_IdleLatchIsUnobservable :
    (idle 0x1B 48 0 0 [cmdEvent .vb]).status.busy = false ∧
    ∃ t, steps 1 (idle 0x1B 48 0 0 [cmdEvent .vb]) = .next t ∧ t.status.busy = true := ⟨rfl, _, rfl, rfl⟩
theorem witness_OperandWritesCommuteWithCompletion :
    (busy .bld 0x1B 48 0 0).status.busy = true ∧ regAccess .nowNtp = .readWrite := by decide
theorem witness_InstancesAreIndependent :
    (∃ q, stepAt 0 (powerOn ⟨2, by decide⟩) = .next q) ∧ (0 : Fin 2) ≠ 1 := ⟨⟨_, rfl⟩, by decide⟩
theorem witness_FirstCommandAfterReset : (999999999#32).toNat < 1000000000 ∧ 1000000000 ≤ (1000000000#32).toNat := by decide
theorem witness_FirstFaultStaysUntilReset :
    (∃ t, step { busy .conv 0 0 0 1000000000 with status := ⟨0, false, true, 1, true⟩ } = .next t) ∧
    ∀ es, ({ busy .conv 0 0 0 1000000000 with status := ⟨0, false, true, 1, true⟩ } : State).script ≠ .reset :: es :=
  ⟨⟨_, rfl⟩, fun _ h => nomatch h⟩
theorem witness_FaultsHaveTheFourCauses :
    (∃ t, step (busy .vb 0 0 0 0 [.wr 0x32 0x01]) = .next t ∧ t.status.fault = true) ∧
    (∃ t, step (idle 0 0 0 0 [.wr 0x32 0x04]) = .next t ∧ t.status.fault = true) ∧
    (∃ t, step (busy .conv 0 0 0 1000000000) = .next t ∧ t.status.fault = true) ∧
    (∃ t, step (busy .bld 0 0 0 0) = .next t ∧ t.status.fault = true) :=
  ⟨⟨_, rfl, rfl⟩, ⟨_, rfl, rfl⟩, ⟨_, rfl, rfl⟩, ⟨_, rfl, rfl⟩⟩
theorem witness_InFlightCommandIsKept :
    (busy .vb 0 0 0 0 [.wr 0x32 0x01]).script.head? = some (.wr 0x32 0x01) ∧ (busy .vb 0 0 0 0 [.wr 0x32 0x01]).status.busy = true ∧
    (∃ t, step (busy .vb 0 0 0 0 [.wr 0x32 0x01]) = .next t) ∧ (Event.wr 0x32 0x01) ≠ .reset := ⟨rfl, rfl, ⟨_, rfl⟩, by decide⟩
theorem witness_DutifulAgentsCauseNoFault :
    Undisturbed (idle 0x1B 48 0 999999999 [cmdEvent .bld]) ∧
    (∀ (j : Nat) (u : State), j < 1 → steps j (idle 0x1B 48 0 999999999 [cmdEvent .bld]) = .next u → Duty u) ∧
    ∃ t, steps 1 (idle 0x1B 48 0 999999999 [cmdEvent .bld]) = .next t :=
  ⟨⟨rfl, by decide, fun h => nomatch h⟩,
   fun j u hj h => by
    obtain rfl : j = 0 := by omega
    cases h
    exact fun _ => ⟨rfl, by decide, fun _ => by decide⟩,
   _, rfl⟩
theorem witness_EveryStepKeepsTheInvariant : Inv (idle 0x1B 48 0 0) ∧ ∃ t, step (idle 0x1B 48 0 0) = .next t :=
  ⟨⟨.inr ⟨rfl, by intro i; simp [idle, State.reset, ByteFile.zeros]⟩, by decide, by decide⟩, _, rfl⟩

end Sys2Proof.Tests
end

