-- ==== Sys2Proof/Proofs/Issue.lean ====
section
/-! SUPPORT. The HOST write to CMD (R36): the issue in each of its three cases, and the write as a step. -/

namespace Sys2Proof.Machine

/-- R36, R174: the BUSY check comes first, whatever the word. -/
theorem issue_busy (c : Byte) (s : State) (hb : s.status.busy = true) : issue c s = raiseFault .issueWhileBusy s := by
  simp [issue, hb]

/-- R36, R175. -/
theorem issue_reserved (c : Byte) (s : State) (hb : s.status.busy = false) (hc : c.extractLsb' 2 6 ≠ 0#6) :
    issue c s = raiseFault .reservedCmd s := by
  simp [issue, hb, decode_error c hc]

/-- R36, R37. -/
theorem issue_legal (c : Byte) (s : State) (hb : s.status.busy = false) (hc : c.extractLsb' 2 6 = 0#6) :
    issue c s = capture (c.extractLsb' 0 2) s := by
  simp [issue, hb, decode_ok c hc]

/-- The register CMD takes the whole of a word that HOST writes to it in the 64-bit container (R34, R54). -/
theorem step_wr_cmd (c : Byte) (s : State) (es : List Event) :
    step { s with script := .wr 0x32 (c.setWidth 64) :: es } = .next (issue c { s with script := es }) := by
  have hw : (c.setWidth 64).setWidth 8 = c := by simp
  rw [step_wr 0x32 _ _ es rfl, writeNumber_cmd, hw]

/-- Settles O11: a step on a CMD write is the issue of its word, which goes one of three ways by BUSY and bits [7:2]. -/
theorem issueDoesExactlyOneOfThree : Obligations.IssueDoesExactlyOneOfThree := by
  intro s c es
  rw [step_wr_cmd]
  refine ⟨fun hb => ?busy, fun hb hc => ?reserved, fun hb hc => ?legal⟩
  case busy => exact congrArg Host.Outcome.next (issue_busy c { s with script := es } hb)
  case reserved => exact congrArg Host.Outcome.next (issue_reserved c { s with script := es } hb hc)
  case legal => exact congrArg Host.Outcome.next (issue_legal c { s with script := es } hb hc)

end Sys2Proof.Machine
end

