-- ==== Sys2Proof/Proofs/Validator.lean ====
section
/-! SUPPORT. The VAL command (R110): RESULT takes the code of VALIDATE's verdict, by the length guard and then by byte 0. -/

namespace Sys2Proof.Machine

/-- The RESULT code of VALIDATE() in the words of Safety.lean (R101 to R104, R107, R171). -/
theorem verdictCode_verdict (l : Latch) :
    verdictCode (verdict l) = if l.reqLen.toNat < 48 then 2#2 else if HeaderAccepted l.req[0] then 1#2 else 3#2 := by
  rw [verdict_eq]
  by_cases hlen : l.reqLen.toNat < 48
  · rw [if_pos hlen, if_pos hlen]; rfl
  · rw [if_neg hlen, if_neg hlen, apply_ite verdictCode]; rfl

/-- Settles O14: VAL completes with the code of the verdict in RESULT, and a completion clears BUSY. -/
theorem valWritesTheVerdict : Obligations.ValWritesTheVerdict := by
  intro s
  rw [exec_val, verdictCode_verdict]
  rfl

end Sys2Proof.Machine
end

