-- ==== Sys2Proof/Proofs/Converter.lean ====
section
/-! SUPPORT. The CONV command on a legal sample (R121 to R123, R126, R130): the state it leaves, and the fraction half of TS. -/

namespace Sys2Proof.Machine

/-- R123: the wrap bit with the epoch offset and the top of the 32-bit range as numerals. -/
theorem wrapOf_eq (sec : BitVec 64) :
    wrapOf sec = decide (sec.toInt + 2208988800 < 0 ∨ sec.toInt + 2208988800 > 4294967295) := by
  simp [wrapOf, secondsMath, ntpEpochOffset]

/-- Settles O16: a legal sample's completion, with the stamp and the wrap bit by the spec's formulas. -/
theorem convWritesTimestampAndWrap : Obligations.ConvWritesTimestampAndWrap := by
  intro s hn
  rw [exec_conv_legal s hn, stampOf_eq, wrapOf_eq]
  rfl

/-- The value the fraction half of TS takes at a nanosecond count (R122). -/
def fractionAt (nsec : Nat) : Nat := nsec * 2 ^ 32 / 1000000000

/-- The fraction half of the latched sample's stamp (R76, R122). -/
theorem stampOf_fraction (l : Latch) (hn : l.clkNsec.toNat < 1000000000) :
    ((stampOf l).extractLsb' 0 32).toNat = fractionAt l.clkNsec.toNat := by
  unfold stampOf
  rw [stamp_fraction, ntpFraction_toNat l.clkNsec hn, fractionAt]

/-- TS after CONV on a legal sample (R130). -/
theorem exec_conv_ts {s t : State} (hn : s.latch.clkNsec.toNat < 1000000000) (h : exec .conv s = .next t) :
    t.ts = stampOf s.latch := by
  rw [exec_conv_legal s hn] at h
  cases h
  rfl

/-- The steps of 4 or 5 units as differences (R126). -/
theorem fractionAt_succ_sub (n : Nat) :
    fractionAt (n + 1) - fractionAt n = 4 ∨ fractionAt (n + 1) - fractionAt n = 5 :=
  (fraction_succ n).imp Nat.sub_eq_of_eq_add' Nat.sub_eq_of_eq_add'

/-- Settles O18: the floor of R122 is the function, and TS follows it because CONV writes the stamp of the latched sample. -/
theorem fractionLaws : Obligations.FractionLaws := by
  refine ⟨fractionAt, fun s t hn h => ?follows, ?zero, ?one, ?half, ?top,
    fun a b hab _ => fraction_strictMono a b hab, fun a _ => fractionAt_succ_sub a,
    fun a ha => fraction_lt a (Nat.lt_succ_of_le ha)⟩
  case follows => rw [exec_conv_ts hn h, stampOf_fraction s.latch hn]
  case zero | one | half | top => decide

end Sys2Proof.Machine
end

