-- ==== Sys2Proof/Proofs/Builder.lean ====
section
/-! SUPPORT. The response commands on an accepted request: BLD's reply (R150), and VB against CONV, NOW_NTP and BLD (R163). -/

namespace Sys2Proof.Machine

/-- Settles O22: BLD completes with the reply at NOW_NTP, whose octets are those of R141 to R149. -/
theorem bldBuildsTheReply : Obligations.BldBuildsTheReply := by
  intro s ha
  refine ⟨replyOf s.latch s.latch.nowNtp, replyOf_spec s.latch s.latch.nowNtp, ?_⟩
  rw [exec_bld_accepted s ha]
  rfl

/-- Only the clock sample of a latch matters to its stamp (R121, R122). -/
theorem stampOf_congr {l l' : Latch} (hsec : l.clkSec = l'.clkSec) (hnsec : l.clkNsec = l'.clkNsec) :
    stampOf l = stampOf l' := by
  unfold stampOf
  rw [hsec, hnsec]

/-- An issue on an idle block and ENGINE's turn end in the state of the command's completion (R36, R38). -/
theorem eq_of_steps_command {i : Instr} {s t u : State} (hb : s.status.busy = false)
    (he : exec i (capture ((encode i).extractLsb' 0 2) { s with script := [] }) = .next u)
    (h : steps 2 { s with script := [cmdEvent i, .engine] } = .next t) : t = u := by
  have hrun := steps_command i { s with script := [cmdEvent i, .engine] } u [] 0 rfl hb he
  exact Host.Outcome.next.inj (h.symm.trans hrun)

/-- `cmd CONV` on a legal sample leaves the sample's stamp in TS (R62, R130). -/
theorem steps_conv_ts {s t : State} (hb : s.status.busy = false) (hn : s.clkNsec.toNat < 1000000000)
    (h : steps 2 { s with script := [cmdEvent .conv, .engine] } = .next t) : t.ts = stampOf (latchOf 3 s) := by
  rw [eq_of_steps_command hb (exec_conv_legal _ hn) h]
  rfl

/-- `cmd BLD` on an accepted request leaves the reply at NOW_NTP (R62, R150). -/
theorem steps_bld_reply {s t : State} (hb : s.status.busy = false) (ha : RequestAccepted (latchOf 2 s))
    (h : steps 2 { s with script := [cmdEvent .bld, .engine] } = .next t) :
    t.resp = replyOf (latchOf 2 s) s.nowNtp ∧ t.respLen = 48 ∧ t.status.result = 1 := by
  rw [eq_of_steps_command hb (exec_bld_accepted _ ha) h]
  exact ⟨rfl, rfl, rfl⟩

/-- `cmd VB` on an accepted request and a legal sample leaves the reply at the sample's stamp (R62, R160). -/
theorem steps_vb_reply {s t : State} (hb : s.status.busy = false) (ha : RequestAccepted (latchOf 0 s))
    (hn : s.clkNsec.toNat < 1000000000) (h : steps 2 { s with script := [cmdEvent .vb, .engine] } = .next t) :
    t.resp = replyOf (latchOf 0 s) (stampOf (latchOf 0 s)) ∧ t.respLen = 48 ∧ t.status.result = 1 := by
  rw [eq_of_steps_command hb (exec_vb_accepted _ ha hn) h]
  exact ⟨rfl, rfl, rfl⟩

/-- HOST's write to NOW_NTP is the first step of a run, and the rest goes on with the register written (R25, R34). -/
theorem steps_wr_nowNtp (k : Nat) (s : State) (now : NtpTimestamp) (es : List Event) :
    steps (k + 1) { s with script := .wr 0x31 now :: es } = steps k { s with nowNtp := now, script := es } :=
  steps_succ k _ _ (step_wr 0x31 now _ es rfl)

/-- Settles O27: both runs leave the reply to one request, VB at the stamp of its own sample and BLD at the TS that CONV made of
the same sample. -/
theorem vbEqualsConvThenBld : Obligations.VbEqualsConvThenBld := by
  intro s c d e u v hsb hsn hconv hdb hlen hhdr hbld heb hreq hreqLen hsec hnsec hvb
  have hae : RequestAccepted (latchOf 0 e) := by
    change 48 ≤ e.reqLen.toNat ∧ HeaderAccepted e.req[0]
    rw [hreqLen, hreq]
    exact ⟨hlen, hhdr⟩
  have hts : c.ts = stampOf (latchOf 0 e) :=
    (steps_conv_ts hsb hsn hconv).trans (stampOf_congr hsec.symm hnsec.symm)
  rw [steps_wr_nowNtp] at hbld
  obtain ⟨hur, hulen, hures⟩ := steps_bld_reply (s := { d with nowNtp := c.ts }) hdb ⟨hlen, hhdr⟩ hbld
  obtain ⟨hvr, hvlen, hvres⟩ := steps_vb_reply heb hae (hnsec ▸ hsn) hvb
  refine ⟨?_, hulen, hvlen, hures, hvres⟩
  have hrequest : (latchOf 2 { d with nowNtp := c.ts }).req = (latchOf 0 e).req := hreq.symm
  rw [hur, hvr, ← hts]
  exact replyOf_congr _ _ _ (by rw [hrequest]) fun _ => by simp only [hrequest]

end Sys2Proof.Machine
end

