-- ==== Sys2Proof/Proofs/ResetAndHazards.lean ====
section
/-! SUPPORT. A completion against HOST's writes to the operand registers (R38, R62, R213), and the first command after reset
(R200, R202). -/

namespace Sys2Proof.Machine

/-- A completion ends in a next state, with the latch it ran on (R31, R38). -/
theorem exec_completes (i : Instr) (s : State) : ∃ t, exec i s = .next t ∧ t.latch = s.latch := by
  rcases exec_cases i s with ⟨-, h⟩ | ⟨-, -, h⟩ | ⟨-, -, h⟩ | ⟨-, -, h⟩ | ⟨-, -, h⟩ | ⟨-, -, -, h⟩ | ⟨-, -, h⟩ |
    ⟨-, -, -, h⟩ <;> exact ⟨_, h, rfl⟩

/-- The state `s` with the operand registers and the events still to come of `u`: no completion reads or writes these. -/
def withOperandsOf (u s : State) : State :=
  { s with req := u.req, reqLen := u.reqLen, nowNtp := u.nowNtp, script := u.script }

/-- A completion commutes with any change of the operand registers and of what is still to happen (R32, R62). -/
theorem exec_withOperandsOf {i : Instr} {s t : State} (u : State) (h : exec i s = .next t) :
    exec i (withOperandsOf u s) = .next (withOperandsOf u t) :=
  exec_operands i s t u.req u.reqLen u.nowNtp u.script h

/-- The registers HOST may both read and write are the operand registers (R22). -/
theorem operand_of_readWrite {r : Reg} (hr : regAccess r = .readWrite) :
    (∃ n, r = .req n) ∨ r = .reqLen ∨ r = .nowNtp := by
  cases r with
  | req n => exact .inl ⟨n, rfl⟩
  | reqLen => exact .inr (.inl rfl)
  | nowNtp => exact .inr (.inr rfl)
  | cmd | resp | respLen | status | ts => cases hr

/-- A write to an operand register reads and writes operand registers only (R54). -/
theorem writeReg_withOperandsOf {r : Reg} (hr : regAccess r = .readWrite) (v : AccessValue) (u s : State) :
    writeReg r v (withOperandsOf u s) = withOperandsOf (writeReg r v u) s := by
  obtain ⟨n, rfl⟩ | rfl | rfl := operand_of_readWrite hr <;> rfl

/-- A HOST write to a register of the map, as a step (R22, R34). -/
theorem step_wr_reg (r : Reg) (v : AccessValue) (s : State) (es : List Event) :
    step { s with script := .wr (regNumber r) v :: es } = .next (writeReg r v { s with script := es }) := by
  rw [step_wr _ v _ es rfl, writeNumber_regNumber]

/-- ENGINE's turn after a write to an operand register completes the command that was in flight before it (R38, R213). -/
theorem step_engine_writeReg {r : Reg} (hr : regAccess r = .readWrite) (v : AccessValue) (s : State) (es : List Event)
    (hb : s.status.busy = true) :
    step (writeReg r v { s with script := .engine :: es }) =
      exec (commandOfOp s.latch.op) (writeReg r v { s with script := es }) := by
  obtain ⟨n, rfl⟩ | rfl | rfl := operand_of_readWrite hr <;> exact step_engine _ es rfl hb

/-- Settles O35: in both orders the completion of `s` stands under the operands of the write, because a completion commutes with
any change of the operand registers. -/
theorem operandWritesCommuteWithCompletion : Obligations.OperandWritesCommuteWithCompletion := by
  intro s r v es hb hr
  obtain ⟨t, ht, -⟩ := exec_completes (commandOfOp s.latch.op) s
  refine ⟨withOperandsOf (writeReg r v { s with script := es }) t, ?writeFirst, ?completionFirst⟩
  case writeFirst =>
    have hwritten : writeReg r v { s with script := es } = withOperandsOf (writeReg r v { s with script := es }) s :=
      writeReg_withOperandsOf hr v { s with script := es } s
    have hengine := step_engine_writeReg hr v s es hb
    rw [hwritten, exec_withOperandsOf _ ht] at hengine
    rw [steps_succ 1 _ _ (step_wr_reg r v s _), steps_succ 0 _ _ hengine, steps_zero]
  case completionFirst =>
    have hexec := exec_withOperandsOf { s with script := .wr (regNumber r) v :: es } ht
    have hengine := (step_engine { s with script := .engine :: .wr (regNumber r) v :: es } _ rfl hb).trans hexec
    have hwrite := step_wr_reg r v (withOperandsOf { s with script := es } t) es
    rw [← writeReg_withOperandsOf hr]
    exact (steps_succ 1 _ _ hengine).trans (steps_succ 0 _ _ hwrite)

/-- The state right after the first issue, on the sample TSRC has driven since the reset (R62, R202). -/
def firstIssue (sec : BitVec 64) (nsec : BitVec 32) (i : Instr) : State :=
  capture ((encode i).extractLsb' 0 2) (driveClock sec nsec State.reset)

/-- A first run of sample, issue and ENGINE's turn ends in the completion on the state of that issue (R38, R60). -/
theorem steps_firstIssue {sec : BitVec 64} {nsec : BitVec 32} {i : Instr} {t : State}
    (h : exec i (firstIssue sec nsec i) = .next t) :
    steps 3 { State.reset with script := [.clk sec nsec, cmdEvent i, .engine] } = .next t :=
  (steps_succ 2 _ _ (step_clk sec nsec _ _ rfl)).trans
    (steps_command i { driveClock sec nsec State.reset with script := [cmdEvent i, .engine] } t [] 0 rfl rfl h)

/-- A latched request of length 0 is MALFORMED (R101). -/
theorem verdict_of_reqLen_zero {l : Latch} (h : l.reqLen = 0) : verdict l = .malformed := by
  simp [verdict_eq, h]

/-- A latched request of length 0 does not pass VALIDATE (R101). -/
theorem not_requestAccepted_of_reqLen_zero {l : Latch} (h : l.reqLen = 0) : ¬ RequestAccepted l := by
  rw [← verdict_ok_iff, verdict_of_reqLen_zero h]
  decide

/-- Settles O39: each command's completion on the latch of the first issue, whose request has length 0. -/
theorem firstCommandAfterReset : Obligations.FirstCommandAfterReset := by
  intro sec nsec i
  obtain ⟨t, ht, hlatch⟩ := exec_completes i (firstIssue sec nsec i)
  have hlen : (firstIssue sec nsec i).latch.reqLen = 0 := rfl
  have hreject := not_requestAccepted_of_reqLen_zero hlen
  have hverdict := verdict_of_reqLen_zero hlen
  refine ⟨t, steps_firstIssue ht, hlatch ▸ hlen, ?malformed, ?precondition, ?converts, ?faults⟩
  case malformed =>
    have hstatus : i = .vb ∨ i = .val → t.status = ⟨2, false, false, 0, false⟩ := by
      rintro (rfl | rfl)
      · rw [exec_vb_rejected _ hreject, hverdict] at ht; cases ht; rfl
      · rw [exec_val, hverdict] at ht; cases ht; rfl
    exact fun hi => congrArg Status.toWord (hstatus hi)
  case precondition =>
    rintro rfl
    rw [exec_bld_rejected _ hreject] at ht
    cases ht
    exact congrArg Status.toWord (rfl : _ = Status.mk 0 false true 4 false)
  case converts =>
    rintro rfl hn
    rw [exec_conv_ts hn ht, stampOf_eq]
    rfl
  case faults =>
    rintro rfl hn
    rw [exec_conv_faults _ hn] at ht
    cases ht
    exact ⟨rfl, congrArg Status.toWord (rfl : _ = Status.mk 0 false true 3 false)⟩

end Sys2Proof.Machine
end

