-- ==== Sys2Proof/Proofs/Completions.lean ====
section
/-! SUPPORT. What every completion leaves unchanged and which result registers it writes (10_state sections 5 and 6; R38, R110,
R130, R150, R160, R173). -/

namespace Sys2Proof.Machine

/-- What every completion leaves as it was, and that it clears BUSY (R38). -/
structure CompletionFrame (s t : State) : Prop where
  req : t.req = s.req
  reqLen : t.reqLen = s.reqLen
  nowNtp : t.nowNtp = s.nowNtp
  latch : t.latch = s.latch
  clkSec : t.clkSec = s.clkSec
  clkNsec : t.clkNsec = s.clkNsec
  script : t.script = s.script
  reads : t.reads = s.reads
  busy : t.status.busy = false

/-- No completion writes an operand register, the latch, the ports, the script or HOST's reads (R32, R38). -/
theorem exec_frame {i : Instr} {s t : State} (h : exec i s = .next t) : CompletionFrame s t := by
  rcases exec_cases i s with ⟨-, h'⟩ | ⟨-, -, h'⟩ | ⟨-, -, h'⟩ | ⟨-, -, h'⟩ | ⟨-, -, h'⟩ | ⟨-, -, -, h'⟩ | ⟨-, -, h'⟩ |
    ⟨-, -, -, h'⟩ <;> (rw [h'] at h; cases h; exact ⟨rfl, rfl, rfl, rfl, rfl, rfl, rfl, rfl, rfl⟩)

/-- Settles O28, from the frame that all eight outcomes of a completion share. -/
theorem completionKeepsOperands : Obligations.CompletionKeepsOperands := by
  intro i s t h
  have hf := exec_frame h
  exact ⟨fun n => by rw [hf.req], hf.reqLen, hf.nowNtp, hf.latch, hf.clkSec, hf.clkNsec, hf.script, hf.reads, hf.busy⟩

/-- What a completion can do to the response registers: VAL and CONV leave them, VB and BLD write the reply to an accepted
request or clear them (R28, R29, R57, R150, R160, R173). -/
theorem exec_response {i : Instr} {s t : State} (h : exec i s = .next t) :
    ((i = .val ∨ i = .conv) ∧ t.resp = s.resp ∧ t.respLen = s.respLen) ∨
    ((i = .vb ∨ i = .bld) ∧ RequestAccepted s.latch ∧ (∃ now, t.resp = replyOf s.latch now) ∧ t.respLen = 48) ∨
    ((i = .vb ∨ i = .bld) ∧ t.resp = ByteFile.zeros ∧ t.respLen = 0) := by
  rcases exec_cases i s with ⟨hi, h'⟩ | ⟨hi, -, h'⟩ | ⟨hi, -, h'⟩ | ⟨hi, ha, h'⟩ | ⟨hi, -, h'⟩ | ⟨hi, ha, -, h'⟩ |
    ⟨hi, -, h'⟩ | ⟨hi, -, -, h'⟩ <;> (rw [h'] at h; cases h)
  · exact .inl ⟨.inl hi, rfl, rfl⟩
  · exact .inl ⟨.inr hi, rfl, rfl⟩
  · exact .inl ⟨.inr hi, rfl, rfl⟩
  · exact .inr (.inl ⟨.inr hi, ha, ⟨_, rfl⟩, rfl⟩)
  · exact .inr (.inr ⟨.inr hi, rfl, rfl⟩)
  · exact .inr (.inl ⟨.inl hi, ha, ⟨_, rfl⟩, rfl⟩)
  · exact .inr (.inr ⟨.inl hi, rfl, rfl⟩)
  · exact .inr (.inr ⟨.inl hi, rfl, rfl⟩)

/-- VAL and CONV leave the response registers (R110, R130). -/
theorem exec_response_kept {i : Instr} {s t : State} (hi : i = .val ∨ i = .conv) (h : exec i s = .next t) :
    t.resp = s.resp ∧ t.respLen = s.respLen := by
  rcases exec_response h with ⟨-, hkept⟩ | ⟨hi', -⟩ | ⟨hi', -⟩
  · exact hkept
  · rcases hi with rfl | rfl <;> simp at hi'
  · rcases hi with rfl | rfl <;> simp at hi'

/-- TS is written by CONV only (R30, R130). -/
theorem exec_ts_kept {i : Instr} {s t : State} (hi : i ≠ .conv) (h : exec i s = .next t) : t.ts = s.ts := by
  rcases exec_cases i s with ⟨-, h'⟩ | ⟨hc, -⟩ | ⟨hc, -⟩ | ⟨-, -, h'⟩ | ⟨-, -, h'⟩ | ⟨-, -, -, h'⟩ | ⟨-, -, h'⟩ | ⟨-, -, -, h'⟩
  case inr.inl | inr.inr.inl => exact absurd hc hi
  all_goals rw [h'] at h; cases h; rfl

/-- Settles O29: the unconditional columns of the write-set table, command by command. -/
theorem completionWriteSets : Obligations.CompletionWriteSets := by
  intro s t
  refine ⟨fun h => ?val, fun h => ?conv, fun h => ?bld, exec_ts_kept (by decide)⟩
  case val =>
    obtain ⟨hresp, hlen⟩ := exec_response_kept (.inl rfl) h
    rw [exec_val] at h
    cases h
    exact ⟨fun n => by rw [hresp], hlen, rfl, rfl, rfl, rfl⟩
  case conv =>
    obtain ⟨hresp, hlen⟩ := exec_response_kept (.inr rfl) h
    refine ⟨fun n => by rw [hresp], hlen, ?_⟩
    rcases Nat.lt_or_ge s.latch.clkNsec.toNat 1000000000 with hn | hn
    · rw [exec_conv_legal s hn] at h; cases h; rfl
    · rw [exec_conv_faults s hn] at h; cases h; rfl
  case bld =>
    refine ⟨exec_ts_kept (by decide) h, ?_⟩
    by_cases ha : RequestAccepted s.latch
    · rw [exec_bld_accepted s ha] at h; cases h; rfl
    · rw [exec_bld_rejected s ha] at h; cases h; rfl

end Sys2Proof.Machine
end

