-- ==== Sys2Proof/Proofs/Effects.lean ====
section
/-! SUPPORT. What one event does to the result registers, the latch and the TSRC ports, said once (R34, R36, R38, R55, R200); the
invariants over steps are case analyses on it. -/

namespace Sys2Proof.Machine

/-- The result registers, the latch and the nanosecond port are as they were. -/
structure Quiet (s t : State) : Prop where
  resp : t.resp = s.resp
  respLen : t.respLen = s.respLen
  ts : t.ts = s.ts
  status : t.status = s.status
  latch : t.latch = s.latch
  clkNsec : t.clkNsec = s.clkNsec

/-- What an event does to the state `s` from whose script it has been taken. -/
inductive Effect (s : State) : Event → State → Prop
  /-- ENGINE completes the latched command (R38). -/
  | completion {t : State} (hb : s.status.busy = true) (h : exec (commandOfOp s.latch.op) s = .next t) : Effect s .engine t
  /-- The reset input (R200). -/
  | reset : Effect s .reset (applyReset s)
  /-- A CMD write while BUSY = 1 (R174). -/
  | issueWhileBusy (v : AccessValue) (hb : s.status.busy = true) : Effect s (.wr 0x32 v) (raiseFault .issueWhileBusy s)
  /-- A CMD write of a reserved word (R175). -/
  | issueReserved (v : AccessValue) (hb : s.status.busy = false) (hc : (v.setWidth 8).extractLsb' 2 6 ≠ 0#6) :
      Effect s (.wr 0x32 v) (raiseFault .reservedCmd s)
  /-- The issue of a legal command (R36). -/
  | issueLegal (v : AccessValue) (hb : s.status.busy = false) (hc : (v.setWidth 8).extractLsb' 2 6 = 0#6) :
      Effect s (.wr 0x32 v) (capture ((v.setWidth 8).extractLsb' 0 2) s)
  /-- TSRC drives a new sample (R27). -/
  | sample (sec : BitVec 64) (nsec : BitVec 32) : Effect s (.clk sec nsec) (driveClock sec nsec s)
  /-- Any other event; ENGINE's turn is one only while BUSY = 0 (R189). -/
  | quiet {e : Event} {t : State} (hq : Quiet s t) (hreset : e ≠ .reset) (hengine : e = .engine → s.status.busy = false) :
      Effect s e t

/-- A HOST write is an issue, or it writes at most an operand register (R54, R55). -/
theorem writeNumber_effect (no : Nat) (v : AccessValue) (s : State) : Effect s (.wr no v) (writeNumber no v s) := by
  rcases writeNumber_cases no v s with ⟨n, -, hw⟩ | ⟨-, hw⟩ | ⟨-, hw⟩ | ⟨rfl, hw⟩ | hw <;> rw [hw]
  case inr.inr.inr.inl =>
    rcases issue_cases (v.setWidth 8) s with ⟨hb, hi⟩ | ⟨hb, hc, hi⟩ | ⟨hb, hc, hi⟩ <;> rw [hi]
    · exact .issueWhileBusy v hb
    · exact .issueReserved v hb hc
    · exact .issueLegal v hb hc
  all_goals exact .quiet ⟨rfl, rfl, rfl, rfl, rfl, rfl⟩ nofun nofun

/-- A poll of `wait` notes a read and may put events before the script, no more (R55, R82). -/
theorem pollStatus_quiet (s : State) : Quiet s (pollStatus s) := by
  cases hb : s.status.busy with
  | true => rw [pollStatus_busy s hb]; exact ⟨rfl, rfl, rfl, rfl, rfl, rfl⟩
  | false => rw [pollStatus_idle s hb]; exact ⟨rfl, rfl, rfl, rfl, rfl, rfl⟩

/-- One event, by its effect. -/
theorem perform_effect {e : Event} {s t : State} (h : perform e s = .next t) : Effect s e t := by
  cases e with
  | wr no v => cases h; exact writeNumber_effect no v s
  | rd no => cases h; exact .quiet ⟨rfl, rfl, rfl, rfl, rfl, rfl⟩ nofun nofun
  | wait => cases h; exact .quiet (pollStatus_quiet s) nofun nofun
  | clk sec nsec => cases h; exact .sample sec nsec
  | reset => cases h; exact .reset
  | engine =>
    cases hb : s.status.busy with
    | true => exact .completion hb ((engineTurn_busy s hb).symm.trans h)
    | false =>
      cases (engineTurn_idle s hb).symm.trans h
      exact .quiet ⟨rfl, rfl, rfl, rfl, rfl, rfl⟩ nofun fun _ => hb

/-- A step has the effect of the next event, on the state without that event (R60). -/
theorem step_effect {s t : State} {e : Event} (hnext : s.script.head? = some e ∨ (s.script = [] ∧ e = .engine))
    (h : step s = .next t) : ∃ es, Effect { s with script := es } e t := by
  obtain ⟨es, hes⟩ := step_head s e hnext
  exact ⟨es, perform_effect (hes.symm.trans h)⟩

/-- Every state has a next event (R220). -/
theorem exists_nextEvent (s : State) : ∃ e, s.script.head? = some e ∨ (s.script = [] ∧ e = .engine) := by
  cases hs : s.script with
  | nil => exact ⟨.engine, .inr ⟨rfl, rfl⟩⟩
  | cons e es => exact ⟨e, .inl rfl⟩

/-- An event never stops the machine (R172, R181). -/
theorem perform_completes (e : Event) (s : State) : ∃ t, perform e s = .next t := by
  cases e with
  | engine =>
    cases hb : s.status.busy with
    | true =>
      obtain ⟨t, ht, -⟩ := exec_completes (commandOfOp s.latch.op) s
      exact ⟨t, (engineTurn_busy s hb).trans ht⟩
    | false => exact ⟨s, engineTurn_idle s hb⟩
  | wr | rd | wait | clk | reset => exact ⟨_, rfl⟩

theorem step_completes (s : State) : ∃ t, step s = .next t := perform_completes _ _

/-- The first step of a run, and the run that goes on from it. -/
theorem exists_step_of_steps_succ {k : Nat} {s t : State} (h : steps (k + 1) s = .next t) :
    ∃ u, step s = .next u ∧ steps k u = .next t := by
  obtain ⟨u, hu⟩ := step_completes s
  exact ⟨u, hu, (steps_succ k s u hu).symm.trans h⟩

end Sys2Proof.Machine
end

