-- ==== Sys2Proof/Proofs/IdleLatch.lean ====
section
/-! SUPPORT. While BUSY = 0 the latch is not observed (R31, R32, 93 U7): a simulation between two states that differ at most in
the latch, and not even there while a command is in flight. -/

namespace Sys2Proof.Machine

/-- The state `s` with the latch `l`. -/
def withLatch (l : Latch) (s : State) : State := { s with latch := l }

/-- `l` may stand for the latch of `t`: it is that latch, unless no command is in flight. -/
def SameInFlight (l : Latch) (t : State) : Prop := t.status.busy = true → l = t.latch

theorem sameInFlight_of_idle {l : Latch} {s : State} (hb : s.status.busy = false) : SameInFlight l s :=
  fun hb' => nomatch hb.symm.trans hb'

/-- HOST's reads do not see the latch (R31). -/
@[simp] theorem readNumber_withLatch (no : Nat) (l : Latch) (s : State) : readNumber no (withLatch l s) = readNumber no s := by
  unfold readNumber
  cases regOfNumber no with
  | none => rfl
  | some r => cases r <;> rfl

theorem hostRead_withLatch (no : Nat) (l : Latch) (s : State) : hostRead no (withLatch l s) = withLatch l (hostRead no s) := by
  unfold hostRead
  rw [readNumber_withLatch]
  rfl

/-- An issue on an idle block overwrites the latch or leaves it, and never reads it (R36). -/
theorem issue_withLatch (c : Byte) (l : Latch) (s : State) (hb : s.status.busy = false) :
    ∃ l', issue c (withLatch l s) = withLatch l' (issue c s) ∧ SameInFlight l' (issue c s) := by
  by_cases hc : c.extractLsb' 2 6 = 0#6
  · rw [issue_legal c s hb hc, issue_legal c (withLatch l s) hb hc]
    exact ⟨latchOf (c.extractLsb' 0 2) s, rfl, fun _ => rfl⟩
  · rw [issue_reserved c s hb hc, issue_reserved c (withLatch l s) hb hc]
    exact ⟨l, rfl, sameInFlight_of_idle hb⟩

theorem writeNumber_withLatch (no : Nat) (v : AccessValue) (l : Latch) (s : State) (hb : s.status.busy = false) :
    ∃ l', writeNumber no v (withLatch l s) = withLatch l' (writeNumber no v s) ∧ SameInFlight l' (writeNumber no v s) := by
  have hidle : SameInFlight l s := sameInFlight_of_idle hb
  unfold writeNumber
  cases regOfNumber no with
  | none => exact ⟨l, rfl, hidle⟩
  | some r =>
    cases r with
    | cmd => exact issue_withLatch (v.setWidth 8) l s hb
    | req | reqLen | nowNtp | resp | respLen | status | ts => exact ⟨l, rfl, hidle⟩

/-- One event on an idle block, under another latch. -/
theorem perform_withLatch (e : Event) (l : Latch) {s t : State} (hb : s.status.busy = false) (h : perform e s = .next t) :
    ∃ l', perform e (withLatch l s) = .next (withLatch l' t) ∧ SameInFlight l' t := by
  have hidle : SameInFlight l s := sameInFlight_of_idle hb
  cases e with
  | wr no v =>
    cases h
    obtain ⟨l', hw, hl'⟩ := writeNumber_withLatch no v l s hb
    exact ⟨l', congrArg Host.Outcome.next hw, hl'⟩
  | rd no => cases h; exact ⟨l, congrArg Host.Outcome.next (hostRead_withLatch no l s), hidle⟩
  | wait =>
    cases h
    rw [pollStatus_idle s hb]
    refine ⟨l, congrArg Host.Outcome.next ?_, hidle⟩
    rw [pollStatus_idle (withLatch l s) hb, hostRead_withLatch]
  | clk sec nsec => cases h; exact ⟨l, rfl, hidle⟩
  | reset => cases h; exact ⟨Latch.reset, rfl, fun _ => rfl⟩
  | engine =>
    cases (engineTurn_idle s hb).symm.trans h
    exact ⟨l, engineTurn_idle (withLatch l s) hb, hidle⟩

/-- The simulation's step. -/
theorem step_withLatch {l : Latch} {s t : State} (hl : SameInFlight l s) (h : step s = .next t) :
    ∃ l', step (withLatch l s) = .next (withLatch l' t) ∧ SameInFlight l' t := by
  cases hb : s.status.busy with
  | true =>
    obtain rfl := hl hb
    exact ⟨t.latch, h, fun _ => rfl⟩
  | false =>
    cases hs : s.script with
    | nil =>
      rw [step_nil (withLatch l s) hs]
      exact perform_withLatch .engine l hb ((step_nil s hs).symm.trans h)
    | cons e es =>
      rw [step_cons (withLatch l s) e es hs]
      exact perform_withLatch e l (s := { s with script := es }) hb ((step_cons s e es hs).symm.trans h)

theorem steps_withLatch {k : Nat} {l : Latch} {s t : State} (hl : SameInFlight l s) (h : steps k s = .next t) :
    ∃ l', steps k (withLatch l s) = .next (withLatch l' t) ∧ SameInFlight l' t := by
  induction k generalizing l s with
  | zero => cases h; exact ⟨l, rfl, hl⟩
  | succ k ih =>
    obtain ⟨u, hu, hrun⟩ := exists_step_of_steps_succ h
    obtain ⟨l₁, hstep, hl₁⟩ := step_withLatch hl hu
    rw [steps_succ k _ _ hstep]
    exact ih hl₁ hrun

/-- Settles O34, by the simulation over any number of steps: on an idle block any latch may stand for the block's own. -/
theorem idleLatchIsUnobservable : Obligations.IdleLatchIsUnobservable := by
  intro k s t l hb h
  exact steps_withLatch (sameInFlight_of_idle hb) h

end Sys2Proof.Machine
end

