-- ==== Sys2Proof/Proofs/Duties.lean ====
section
/-! SUPPORT. HOST and TSRC keeping the checkable duties of R190: no fault is ever recorded. -/

namespace Sys2Proof.Machine

/-- The duty on a CMD write (R190). -/
theorem Duty.cmd {s : State} {v : AccessValue} (hd : Duty s) (hs : s.script.head? = some (.wr 0x32 v)) :
    s.status.busy = false ∧ (v.setWidth 8).extractLsb' 2 6 = 0#6 ∧
      ((v.setWidth 8).extractLsb' 0 2 = 2#2 → 48 ≤ s.reqLen.toNat ∧ HeaderAccepted s.req[0]) := by
  unfold Duty at hd
  rw [hs] at hd
  exact hd rfl

/-- The duty on a sample (R27, R190). -/
theorem Duty.sample {s : State} {sec : BitVec 64} {nsec : BitVec 32} (hd : Duty s)
    (hs : s.script.head? = some (.clk sec nsec)) : nsec.toNat ≤ 999999999 := by
  unfold Duty at hd
  rwa [hs] at hd

/-- A next event that is not ENGINE's turn is the head of the script. -/
theorem head_of_ne_engine {s : State} {e : Event} (hnext : s.script.head? = some e ∨ (s.script = [] ∧ e = .engine))
    (he : e ≠ .engine) : s.script.head? = some e :=
  hnext.resolve_right fun h => he h.2

/-- No condition is on the events to come. -/
theorem Undisturbed.withScript {s : State} (hs : Undisturbed s) (es : List Event) : Undisturbed { s with script := es } :=
  ⟨hs.noFault, hs.sample, hs.inFlight⟩

/-- A dutiful command in flight completes without a fault (R176, R177). -/
theorem exec_keeps_undisturbed {s t : State} (hs : Undisturbed s) (hb : s.status.busy = true)
    (h : exec (commandOfOp s.latch.op) s = .next t) : Undisturbed t := by
  obtain ⟨hnsec, hbld⟩ := hs.inFlight hb
  have hf := exec_frame h
  refine ⟨?_, hf.clkNsec ▸ hs.sample, fun hb' => nomatch hf.busy.symm.trans hb'⟩
  rcases exec_faultRecord _ s t h with ⟨hfault, -⟩ | ⟨c, -, -, ⟨-, hrange, -⟩ | ⟨-, hi, hreject⟩⟩
  · exact hfault.trans hs.noFault
  · omega
  · exact absurd (hbld ((commandOfOp_bld _).1 hi)) hreject

/-- A step on which the duties are kept leaves the block undisturbed. -/
theorem step_undisturbed {s t : State} (hs : Undisturbed s) (hd : Duty s) (h : step s = .next t) : Undisturbed t := by
  obtain ⟨e, hnext⟩ := exists_nextEvent s
  obtain ⟨es, heffect⟩ := step_effect hnext h
  cases heffect with
  | completion hb hexec => exact exec_keeps_undisturbed (hs.withScript es) hb hexec
  | reset => exact ⟨rfl, hs.sample, nofun⟩
  | issueWhileBusy v hb => exact nomatch (hd.cmd (head_of_ne_engine hnext nofun)).1.symm.trans hb
  | issueReserved v _ hc => exact absurd (hd.cmd (head_of_ne_engine hnext nofun)).2.1 hc
  | issueLegal v _ _ =>
    obtain ⟨-, -, hbld⟩ := hd.cmd (head_of_ne_engine hnext nofun)
    exact ⟨hs.noFault, hs.sample, fun _ => ⟨hs.sample, hbld⟩⟩
  | sample sec nsec => exact ⟨hs.noFault, hd.sample (head_of_ne_engine hnext nofun), hs.inFlight⟩
  | quiet hq =>
    refine ⟨?_, ?_, ?_⟩
    · rw [hq.status]; exact hs.noFault
    · rw [hq.clkNsec]; exact hs.sample
    · rw [hq.status, hq.latch]; exact hs.inFlight

theorem steps_undisturbed {k : Nat} {s t : State} (hs : Undisturbed s)
    (hd : ∀ (j : Nat) (u : State), j < k → steps j s = .next u → Duty u) (h : steps k s = .next t) : Undisturbed t := by
  induction k generalizing s with
  | zero => cases h; exact hs
  | succ k ih =>
    obtain ⟨u, hu, hrun⟩ := exists_step_of_steps_succ h
    have hduty : Duty s := hd 0 s (Nat.succ_pos k) rfl
    exact ih (step_undisturbed hs hduty hu)
      (fun j w hj hw => hd (j + 1) w (Nat.succ_lt_succ hj) ((steps_succ j s u hu).trans hw)) hrun

/-- Settles O43: the invariant `Undisturbed` holds at reset and every dutiful step keeps it. -/
theorem dutifulAgentsCauseNoFault : Obligations.DutifulAgentsCauseNoFault := by
  refine ⟨⟨rfl, by decide, nofun⟩, fun k s t hs hd h => ?_⟩
  have ht := steps_undisturbed hs hd h
  exact ⟨ht, ht.noFault⟩

end Sys2Proof.Machine
end

