-- ==== Sys2Proof/Proofs/Invariant.lean ====
section
/-! SUPPORT. The invariant of the result registers (R26, R29, R162, R172), at reset and over every step. -/

namespace Sys2Proof.Machine

@[simp] theorem zeros_getElem (i : Nat) (h : i < 48) : ByteFile.zeros[i] = 0x00 := by simp [ByteFile.zeros]

/-- Settles O44: the reset state has no response and no fault. -/
theorem resetSatisfiesTheInvariant : Obligations.ResetSatisfiesTheInvariant :=
  { response := .inr ⟨rfl, fun i => zeros_getElem i.val i.isLt⟩
    cause := by decide
    record := by decide }

/-- The code of a cause is one of 1 to 4 (R26). -/
theorem causeCode_range (c : FaultCause) : (causeCode c).toNat ≤ 4 ∧ causeCode c ≠ 0 := by cases c <;> decide

/-- The invariant does not speak of the events to come. -/
theorem Inv.withScript {s : State} (hs : Inv s) (es : List Event) : Inv { s with script := es } :=
  ⟨hs.response, hs.cause, hs.record⟩

/-- The invariant is kept by a legal response and a fault record that is kept or made by R172. -/
theorem Inv.of_record {s t : State} (hs : Inv s)
    (hresponse : (t.respLen = 48 ∧ ServerReply t.resp) ∨ (t.respLen = 0 ∧ ∀ i : Fin 48, t.resp[i] = 0x00))
    (hrecord : (t.status.fault = s.status.fault ∧ t.status.fcause = s.status.fcause) ∨
      ∃ c, t.status.fault = true ∧ t.status.fcause = if s.status.fault then s.status.fcause else causeCode c) : Inv t := by
  rcases hrecord with ⟨hfault, hfcause⟩ | ⟨c, hfault, hfcause⟩
  · exact ⟨hresponse, hfcause ▸ hs.cause, hfault ▸ hfcause ▸ hs.record⟩
  · have hcode : t.status.fcause.toNat ≤ 4 ∧ t.status.fcause ≠ 0 := by
      rw [hfcause]
      cases hf : s.status.fault with
      | false => exact causeCode_range c
      | true => exact ⟨hs.cause, fun h0 => nomatch hf.symm.trans (hs.record.2 h0)⟩
    exact ⟨hresponse, hcode.1, ⟨fun h => (nomatch hfault.symm.trans h), fun h0 => absurd h0 hcode.2⟩⟩

/-- A completion leaves a response that may be sent, or none (R162, R173). -/
theorem exec_keeps_response {i : Instr} {s t : State} (hs : Inv s) (h : exec i s = .next t) :
    (t.respLen = 48 ∧ ServerReply t.resp) ∨ (t.respLen = 0 ∧ ∀ i : Fin 48, t.resp[i] = 0x00) := by
  rcases exec_response h with ⟨-, hresp, hlen⟩ | ⟨-, ⟨-, hheader⟩, ⟨now, hresp⟩, hlen⟩ | ⟨-, hresp, hlen⟩ <;> rw [hresp, hlen]
  · exact hs.response
  · exact .inl ⟨rfl, (replyOf_spec s.latch now).serverReply _ _ _ hheader⟩
  · exact .inr ⟨rfl, fun i => zeros_getElem i.val i.isLt⟩

theorem exec_keeps_inv {i : Instr} {s t : State} (hs : Inv s) (h : exec i s = .next t) : Inv t := by
  refine hs.of_record (exec_keeps_response hs h) ?_
  rcases exec_faultRecord i s t h with hkept | ⟨c, hfault, hfcause, -⟩
  · exact .inl hkept
  · exact .inr ⟨c, hfault, hfcause⟩

/-- Settles O45: each effect keeps the response or makes a legal one, and keeps the fault record or makes it by R172. -/
theorem everyStepKeepsTheInvariant : Obligations.EveryStepKeepsTheInvariant := by
  intro s t hs h
  obtain ⟨e, hnext⟩ := exists_nextEvent s
  obtain ⟨es, heffect⟩ := step_effect hnext h
  cases heffect with
  | completion _ hexec => exact exec_keeps_inv (hs.withScript es) hexec
  | reset =>
    have hreset := resetSatisfiesTheInvariant
    exact ⟨hreset.response, hreset.cause, hreset.record⟩
  | issueWhileBusy | issueReserved => exact hs.of_record hs.response (.inr ⟨_, rfl, rfl⟩)
  | issueLegal | sample => exact hs.of_record hs.response (.inl ⟨rfl, rfl⟩)
  | quiet hq =>
    refine hs.of_record ?_ (.inl ?_)
    · rw [hq.resp, hq.respLen]; exact hs.response
    · rw [hq.status]; exact ⟨rfl, rfl⟩

end Sys2Proof.Machine
end

