-- ==== Sys2Proof/Proofs/StepEffects.lean ====
section
/-! SUPPORT. Statements about one step, each a case analysis on the effect of the next event: which events write the results
(R28 to R30), when a fault is recorded and that it stays (R172 to R177), and what a command in flight keeps (R36, R38, R211). -/

namespace Sys2Proof.Machine

/-- Of all events but a reset only a completion writes TS, RESP or RESP_LEN (R28 to R30). -/
theorem Effect.results {s t : State} {e : Event} (h : Effect s e t) (hreset : e ≠ .reset) :
    (t.ts = s.ts ∧ t.resp = s.resp ∧ t.respLen = s.respLen) ∨
    (e = .engine ∧ s.status.busy = true ∧ exec (commandOfOp s.latch.op) s = .next t) := by
  cases h with
  | completion hb hexec => exact .inr ⟨rfl, hb, hexec⟩
  | reset => exact absurd rfl hreset
  | issueWhileBusy | issueReserved | issueLegal | sample => exact .inl ⟨rfl, rfl, rfl⟩
  | quiet hq => exact .inl ⟨hq.ts, hq.resp, hq.respLen⟩

/-- Settles O30: a changed result means a completion, and the latched operation code tells of which command. -/
theorem onlyCompletionsWriteResults : Obligations.OnlyCompletionsWriteResults := by
  intro s t e hnext h hreset
  obtain ⟨es, heffect⟩ := step_effect hnext h
  rcases heffect.results hreset with ⟨hts, hresp, hlen⟩ | ⟨he, hb, hexec⟩
  · exact ⟨(absurd hts ·), fun hne => (hne.elim (absurd hresp) (absurd hlen))⟩
  · refine ⟨fun hts => ⟨he, hb, ?conv⟩, fun hne => ⟨he, hb, ?response⟩⟩
    case conv =>
      by_contra hop
      have hkept := exec_ts_kept (mt (commandOfOp_conv _).1 hop) hexec
      exact hts hkept
    case response =>
      rcases exec_response hexec with ⟨-, hresp, hlen⟩ | ⟨hi, -⟩ | ⟨hi, -⟩
      · exact (hne.elim (absurd hresp) (absurd hlen))
      · exact hi.imp (commandOfOp_vb _).1 (commandOfOp_bld _).1
      · exact hi.imp (commandOfOp_vb _).1 (commandOfOp_bld _).1

/-- Settles O40: R172 keeps the cause of a recorded fault, and no other effect but a reset writes the record. -/
theorem firstFaultStaysUntilReset : Obligations.FirstFaultStaysUntilReset := by
  intro s t h hfault hreset
  obtain ⟨e, hnext⟩ := exists_nextEvent s
  obtain ⟨es, heffect⟩ := step_effect hnext h
  cases heffect with
  | completion _ hexec =>
    rcases exec_faultRecord _ _ t hexec with ⟨hf, hc⟩ | ⟨c, hf, hc, -⟩
    · exact ⟨hf.trans hfault, hc⟩
    · exact ⟨hf, hc.trans (if_pos hfault)⟩
  | reset =>
    obtain ⟨es', hs⟩ := List.head?_eq_some_iff.1 (head_of_ne_engine hnext nofun)
    exact absurd hs (hreset es')
  | issueWhileBusy | issueReserved => exact ⟨rfl, if_pos hfault⟩
  | issueLegal | sample => exact ⟨hfault, rfl⟩
  | quiet hq => rw [hq.status]; exact ⟨hfault, rfl⟩

/-- Settles O41: R172 is used by two kinds of issue and three faulting completions, and with no fault recorded it leaves their
cause's code. -/
theorem faultsHaveTheFourCauses : Obligations.FaultsHaveTheFourCauses := by
  intro s t e hnext h hbefore hafter
  obtain ⟨es, heffect⟩ := step_effect hnext h
  have hfirst (c : FaultCause) : (if s.status.fault then s.status.fcause else causeCode c) = causeCode c := by simp [hbefore]
  cases heffect with
  | completion hb hexec =>
    rcases exec_faultRecord _ _ t hexec with ⟨hf, -⟩ | ⟨c, -, hc, ⟨rfl, hn, hi⟩ | ⟨rfl, hi, hreject⟩⟩
    · exact nomatch hbefore.symm.trans (hf.symm.trans hafter)
    · exact .inr (.inr (.inl ⟨rfl, hb, hi.imp (commandOfOp_conv _).1 (.imp_left (commandOfOp_vb _).1), hn, hc.trans (hfirst _)⟩))
    · exact .inr (.inr (.inr ⟨rfl, hb, (commandOfOp_bld _).1 hi, hreject, hc.trans (hfirst _)⟩))
  | reset => exact nomatch hafter
  | issueWhileBusy v hb => exact .inl ⟨v, rfl, hb, hfirst _⟩
  | issueReserved v hb hc => exact .inr (.inl ⟨v, rfl, hb, hc, hfirst _⟩)
  | issueLegal | sample => exact nomatch hbefore.symm.trans hafter
  | quiet hq =>
    rw [hq.status] at hafter
    exact nomatch hbefore.symm.trans hafter

/-- Settles O42: on a busy block only a completion and a reset clear BUSY, and no issue captures. -/
theorem inFlightCommandIsKept : Obligations.InFlightCommandIsKept := by
  intro s t e hnext hbusy h hreset
  obtain ⟨es, heffect⟩ := step_effect hnext h
  cases heffect with
  | completion _ hexec =>
    have hf := exec_frame hexec
    exact ⟨hf.latch, fun he => absurd rfl he, fun _ => hf.busy⟩
  | reset => exact absurd rfl hreset
  | issueWhileBusy | sample => exact ⟨rfl, fun _ => ⟨hbusy, rfl, rfl, rfl, rfl, rfl⟩, nofun⟩
  | issueReserved _ hidle | issueLegal _ hidle => exact nomatch hbusy.symm.trans hidle
  | quiet hq _ hengine =>
    refine ⟨hq.latch, fun _ => ?_, fun he => nomatch hbusy.symm.trans (hengine he)⟩
    rw [hq.status]
    exact ⟨hbusy, hq.resp, hq.respLen, hq.ts, rfl, rfl⟩

end Sys2Proof.Machine
end

