-- ==== Sys2Proof/Proofs/NonInterference.lean ====
section
/-! SUPPORT. What a completion reads (R21, R56, R105, R106, R149, R162): of the latched request octets 0 and 40 to 47 and the
length, and no result register. -/

namespace Sys2Proof.Machine

/-- VALIDATE reads L.req_len, and L.req[0] of a request of full length (R106). -/
theorem verdict_congr {l l' : Latch} (hlen : l'.reqLen = l.reqLen) (h0 : l.reqLen.toNat < 48 ∨ l'.req[0] = l.req[0]) :
    verdict l' = verdict l := by
  rw [verdict_eq, verdict_eq, hlen]
  rcases h0 with hshort | h0
  · rw [if_pos hshort, if_pos hshort]
  · rw [h0]

theorem requestAccepted_congr {l l' : Latch} (hv : verdict l' = verdict l) : RequestAccepted l' ↔ RequestAccepted l := by
  rw [← verdict_ok_iff, ← verdict_ok_iff, hv]

/-- The state `s` with the latched request octets `x`. -/
def withLatchedRequest (x : ByteFile) (s : State) : State := { s with latch := { s.latch with req := x } }

/-- The stamp reads the latched sample only (R121, R122). -/
theorem stampOf_withLatchedRequest (x : ByteFile) (s : State) :
    stampOf (withLatchedRequest x s).latch = stampOf s.latch := stampOf_congr rfl rfl

/-- Settles O31: with the same verdict and, on an accepted request, the same reply, each outcome of a completion is the same. -/
theorem otherRequestOctetsAreNotRead : Obligations.OtherRequestOctetsAreNotRead := by
  intro i s t x hagree h
  change exec i (withLatchedRequest x s) = .next (withLatchedRequest x t)
  have hverdict : verdict (withLatchedRequest x s).latch = verdict s.latch := verdict_congr rfl (hagree.imp_right And.left)
  have haccepted := requestAccepted_congr hverdict
  have hreply (now : NtpTimestamp) (ha : RequestAccepted s.latch) :
      replyOf (withLatchedRequest x s).latch now = replyOf s.latch now := by
    obtain ⟨h0, horiginate⟩ := hagree.resolve_left (Nat.not_lt.2 ha.1)
    exact replyOf_congr _ _ now h0 horiginate
  have hstamp := stampOf_withLatchedRequest x s
  rcases exec_cases i s with ⟨rfl, h'⟩ | ⟨rfl, hn, h'⟩ | ⟨rfl, hn, h'⟩ | ⟨rfl, ha, h'⟩ | ⟨rfl, ha, h'⟩ | ⟨rfl, ha, hn, h'⟩ |
    ⟨rfl, ha, h'⟩ | ⟨rfl, ha, hn, h'⟩ <;> (rw [h'] at h; cases h)
  · rw [exec_val, hverdict]; rfl
  · rw [exec_conv_legal (withLatchedRequest x s) hn, hstamp]; rfl
  · rw [exec_conv_faults (withLatchedRequest x s) hn]; rfl
  · rw [exec_bld_accepted _ (haccepted.2 ha), hreply _ ha]; rfl
  · rw [exec_bld_rejected _ (mt haccepted.1 ha)]; rfl
  · rw [exec_vb_accepted _ (haccepted.2 ha) hn, hstamp, hreply _ ha]; rfl
  · rw [exec_vb_rejected _ (mt haccepted.1 ha), hverdict]; rfl
  · rw [exec_vb_faults _ (haccepted.2 ha) hn]; rfl

/-- Settles O32: each outcome of a completion is a function of the latch, the kept registers and the fault record. -/
theorem completionsReadNoResult : Obligations.CompletionsReadNoResult := by
  intro s s' t p n x r w hs'
  have hl : s'.latch = s.latch := by rw [hs']
  have ha := Decidable.em (RequestAccepted s.latch)
  have hn := Nat.lt_or_ge s.latch.clkNsec.toNat 1000000000
  refine ⟨fun h => ?vb, fun h => ?val, fun h => ?bld, fun h hn => ?conv⟩
  case vb =>
    rcases ha with ha | ha
    · rcases hn with hn | hn
      · rw [exec_vb_accepted s ha hn] at h; cases h
        rw [exec_vb_accepted s' (hl ▸ ha) (hl ▸ hn), hl, hs']; rfl
      · rw [exec_vb_faults s ha hn] at h; cases h
        rw [exec_vb_faults s' (hl ▸ ha) (hl ▸ hn), hs']; rfl
    · rw [exec_vb_rejected s ha] at h; cases h
      rw [exec_vb_rejected s' (hl ▸ ha), hl, hs']; rfl
  case val =>
    rw [exec_val] at h; cases h
    rw [exec_val, hl, hs']; rfl
  case bld =>
    rcases ha with ha | ha
    · rw [exec_bld_accepted s ha] at h; cases h
      rw [exec_bld_accepted s' (hl ▸ ha), hl, hs']; rfl
    · rw [exec_bld_rejected s ha] at h; cases h
      rw [exec_bld_rejected s' (hl ▸ ha), hs']; rfl
  case conv =>
    rw [exec_conv_legal s hn] at h; cases h
    rw [exec_conv_legal s' (hl ▸ hn), hl, hs']; rfl

/-- Settles O33: equal operands give one verdict, one stamp and one reply, and the results are a function of these. -/
theorem responsesAreDeterministic : Obligations.ResponsesAreDeterministic := by
  intro s u t v hlen h0 horiginate
  have hverdict := verdict_congr hlen (.inr h0)
  have haccepted := requestAccepted_congr hverdict
  have hreply (now : NtpTimestamp) := replyOf_congr s.latch u.latch now h0 horiginate
  refine ⟨fun hsec hnsec ht hv => ?vb, fun hnow ht hv => ?bld⟩
  case vb =>
    by_cases ha : RequestAccepted s.latch
    · rcases Nat.lt_or_ge s.latch.clkNsec.toNat 1000000000 with hn | hn
      · rw [exec_vb_accepted s ha hn, hreply, stampOf_congr hsec hnsec, hsec] at ht
        rw [exec_vb_accepted u (haccepted.1 ha) (hnsec ▸ hn)] at hv
        cases ht; cases hv
        exact ⟨rfl, rfl, rfl, rfl⟩
      · rw [exec_vb_faults s ha hn] at ht
        rw [exec_vb_faults u (haccepted.1 ha) (hnsec ▸ hn)] at hv
        cases ht; cases hv
        exact ⟨rfl, rfl, rfl, rfl⟩
    · rw [exec_vb_rejected s ha, hverdict] at ht
      rw [exec_vb_rejected u (mt haccepted.2 ha)] at hv
      cases ht; cases hv
      exact ⟨rfl, rfl, rfl, rfl⟩
  case bld =>
    by_cases ha : RequestAccepted s.latch
    · rw [exec_bld_accepted s ha, hreply, hnow] at ht
      rw [exec_bld_accepted u (haccepted.1 ha)] at hv
      cases ht; cases hv
      exact ⟨rfl, rfl, rfl⟩
    · rw [exec_bld_rejected s ha] at ht
      rw [exec_bld_rejected u (mt haccepted.2 ha)] at hv
      cases ht; cases hv
      exact ⟨rfl, rfl, rfl⟩

end Sys2Proof.Machine
end

