-- ==== Sys2Proof/Proofs/Instances.lean ====
section
/-! SUPPORT. The blocks of a platform (R187): a step of one reads and writes no other. -/

namespace Sys2Proof.Machine

/-- A step of block `k` replaces that block by its own next state (R187). -/
theorem stepAt_next {n : NInst} (k : Fin n.val) (p : Platform n) {t : State} (h : step p.blocks[k] = .next t) :
    stepAt k p = .next { blocks := p.blocks.set k t } := by
  simp only [stepAt, h]

/-- Two blocks' steps in an order (R60, R187). -/
theorem stepInstances_pair {n : NInst} {j k : Fin n.val} (hjk : j ≠ k) (p : Platform n) {t u : State}
    (ht : step p.blocks[j] = .next t) (hu : step p.blocks[k] = .next u) :
    stepInstances [j, k] p = .next { blocks := (p.blocks.set j t).set k u } := by
  have hk : (p.blocks.set j t)[k] = p.blocks[k] := Vector.getElem_set_ne j.isLt k.isLt (Fin.val_ne_of_ne hjk)
  have hsecond : stepAt k { blocks := p.blocks.set j t } = .next { blocks := (p.blocks.set j t).set k u } :=
    stepAt_next k _ ((congrArg step hk).trans hu)
  simp only [stepInstances, stepAt_next j p ht, hsecond]

/-- Settles O36: a step writes one place of the vector of blocks, and writes of two places commute. -/
theorem instancesAreIndependent : Obligations.InstancesAreIndependent := by
  refine ⟨fun n k p q h => ?frame, fun n j k p hjk => ?commute⟩
  case frame =>
    obtain ⟨t, ht⟩ := step_completes p.blocks[k]
    rw [stepAt_next k p ht] at h
    cases h
    refine ⟨ht.trans (congrArg Host.Outcome.next ?_), fun j hjk => ?_⟩
    · exact (Vector.getElem_set_self k.isLt).symm
    · exact Vector.getElem_set_ne k.isLt j.isLt (Fin.val_ne_of_ne hjk.symm)
  case commute =>
    obtain ⟨t, ht⟩ := step_completes p.blocks[j]
    obtain ⟨u, hu⟩ := step_completes p.blocks[k]
    refine ⟨_, stepInstances_pair hjk p ht hu, ?_⟩
    rw [stepInstances_pair hjk.symm p hu ht, Vector.set_comm _ _ (Fin.val_ne_of_ne hjk)]

end Sys2Proof.Machine
end

