-- ==== Sys2Proof/Proofs/Liveness.lean ====
section
/-! SUPPORT. No run stops (R56, R172), and within three steps for each event and one more the script is done and the block is
idle (R220). -/

namespace Sys2Proof.Machine

/-- Settles O46: a run goes on because every event ends in a next state. -/
theorem theBlockNeverStops : Obligations.TheBlockNeverStops := by
  refine ⟨fun i s => ?command, fun k s => ?run⟩
  case command =>
    obtain ⟨t, ht, -⟩ := exec_completes i s
    exact ⟨t, ht⟩
  case run =>
    induction k generalizing s with
    | zero => exact ⟨s, rfl⟩
    | succ k ih =>
      obtain ⟨u, hu⟩ := step_completes s
      obtain ⟨t, ht⟩ := ih u
      exact ⟨t, (steps_succ k s u hu).trans ht⟩

/-- Nothing is left to happen: no event and no command in flight. -/
def Settled (s : State) : Prop := s.script = [] ∧ s.status.busy = false

/-- A settled block keeps its state over any number of steps (R189). -/
theorem steps_settled {s : State} (hs : Settled s) (k : Nat) : steps k s = .next s := by
  induction k with
  | zero => rfl
  | succ k ih => exact (steps_succ k s s ((step_nil s hs.1).trans (engineTurn_idle s hs.2))).trans ih

/-- A run into a settled state may be longer. -/
theorem steps_settled_le {j k : Nat} {s t : State} (ht : Settled t) (hjk : j ≤ k) (h : steps j s = .next t) :
    steps k s = .next t := by
  rw [← Nat.add_sub_of_le hjk, steps_add j _ s t h]
  exact steps_settled ht _

@[simp] theorem issue_script (c : Byte) (s : State) : (issue c s).script = s.script := by
  rcases issue_cases c s with ⟨-, h⟩ | ⟨-, -, h⟩ | ⟨-, -, h⟩ <;> rw [h] <;> rfl

@[simp] theorem writeNumber_script (no : Nat) (v : AccessValue) (s : State) : (writeNumber no v s).script = s.script := by
  rcases writeNumber_cases no v s with ⟨_, -, h⟩ | ⟨-, h⟩ | ⟨-, h⟩ | ⟨-, h⟩ | h <;> rw [h]
  exact issue_script _ s

/-- ENGINE's turn leaves the block idle and the script as it was (R38). -/
theorem engineTurn_idles (s : State) : ∃ t, engineTurn s = .next t ∧ t.script = s.script ∧ t.status.busy = false := by
  cases hb : s.status.busy with
  | true =>
    obtain ⟨t, ht, -⟩ := exec_completes (commandOfOp s.latch.op) s
    exact ⟨t, (engineTurn_busy s hb).trans ht, (exec_frame ht).script, (exec_frame ht).busy⟩
  | false => exact ⟨s, engineTurn_idle s hb, rfl, hb⟩

/-- Every event but a poll of `wait` leaves the events to come (R60). -/
theorem perform_script {e : Event} (he : e ≠ .wait) (s : State) : ∃ t, perform e s = .next t ∧ t.script = s.script := by
  cases e with
  | wr no v => exact ⟨_, rfl, writeNumber_script no v s⟩
  | wait => exact absurd rfl he
  | engine =>
    obtain ⟨t, ht, hscript, -⟩ := engineTurn_idles s
    exact ⟨t, ht, hscript⟩
  | rd | clk | reset => exact ⟨_, rfl, rfl⟩

/-- On an idle block a `wait` ends with its first poll (R82). -/
theorem step_wait_idle {s : State} {es : List Event} (hs : s.script = .wait :: es) (hb : s.status.busy = false) :
    ∃ t, step s = .next t ∧ t.script = es := by
  rw [step_wait s es hs, pollStatus_idle { s with script := es } hb]
  exact ⟨_, rfl, rfl⟩

/-- A `wait` takes at most three steps: a poll, ENGINE's turn and a second poll (R82, R220). -/
theorem steps_wait {s : State} {es : List Event} (hs : s.script = .wait :: es) :
    ∃ j t, j ≤ 3 ∧ steps j s = .next t ∧ t.script = es := by
  cases hb : s.status.busy with
  | false =>
    obtain ⟨t, ht, hscript⟩ := step_wait_idle hs hb
    exact ⟨1, t, by decide, steps_succ 0 s t ht, hscript⟩
  | true =>
    obtain ⟨u, hu, huscript⟩ : ∃ u, step s = .next u ∧ u.script = .engine :: .wait :: es := by
      rw [step_wait s es hs, pollStatus_busy { s with script := es } hb]
      exact ⟨_, rfl, rfl⟩
    obtain ⟨v, hv, hvscript, hvidle⟩ := engineTurn_idles { u with script := .wait :: es }
    obtain ⟨t, ht, hscript⟩ := step_wait_idle hvscript hvidle
    refine ⟨3, t, by decide, ?_, hscript⟩
    rw [steps_succ 2 s u hu, steps_succ 1 u v ((step_cons u _ _ huscript).trans hv), steps_succ 0 v t ht, steps_zero]

/-- Every scripted event is done within three steps. -/
theorem steps_event {s : State} {e : Event} {es : List Event} (hs : s.script = e :: es) :
    ∃ j t, j ≤ 3 ∧ steps j s = .next t ∧ t.script = es := by
  by_cases he : e = .wait
  · exact steps_wait (he ▸ hs)
  · obtain ⟨t, ht, hscript⟩ := perform_script he { s with script := es }
    exact ⟨1, t, by decide, steps_succ 0 s t ((step_cons s e es hs).trans ht), hscript⟩

/-- A block with the script `es` is settled after three steps for each event and one more. -/
theorem steps_script (es : List Event) (s : State) (hs : s.script = es) :
    ∃ t, steps (3 * es.length + 1) s = .next t ∧ Settled t := by
  induction es generalizing s with
  | nil =>
    obtain ⟨t, ht, hscript, hidle⟩ := engineTurn_idles s
    exact ⟨t, steps_succ 0 s t ((step_nil s hs).trans ht), hscript.trans hs, hidle⟩
  | cons e es ih =>
    obtain ⟨j, u, hj, hu, huscript⟩ := steps_event hs
    obtain ⟨t, ht, hsettled⟩ := ih u huscript
    have hrun : steps (j + (3 * es.length + 1)) s = .next t := (steps_add j _ s u hu).trans ht
    exact ⟨t, steps_settled_le hsettled (by simp only [List.length_cons]; omega) hrun, hsettled⟩

/-- Settles O47, by induction on the script. -/
theorem scriptEndsWithTheBlockIdle : Obligations.ScriptEndsWithTheBlockIdle :=
  fun s => steps_script s.script s rfl

end Sys2Proof.Machine
end

