-- ==== Sys2Proof/Proofs/Encoding.lean ====
section
/-! SUPPORT. The command words, the register numbers and the STATUS word (R22, R26, R37, R70, R81). -/

namespace Sys2Proof

/-- A word decodes to a command exactly when bits [7:2] are 0 and bits [1:0] are its operation code (R37, R70). -/
theorem decode_ok_iff {w : Byte} {i : Instr} :
    decode w = .ok i ↔ w.extractLsb' 2 6 = 0#6 ∧ commandOfOp (w.extractLsb' 0 2) = i := by
  rw [decode_eq]
  split
  · next hc => simp [hc]
  · next hc => simp [hc]

/-- A legal word is the word of the command of its operation code (R70). -/
theorem encode_commandOfOp : ∀ w : Byte, w.extractLsb' 2 6 = 0#6 → encode (commandOfOp (w.extractLsb' 0 2)) = w := by decide

/-- Settles O1, by what a word that decodes is. -/
theorem decodeOfEncodeIsTheCommand : Obligations.DecodeOfEncodeIsTheCommand := by
  refine ⟨fun i _ => decode_ok_iff.2 ⟨encode_reserved_zero i, commandOfOp_encode i⟩, fun w i h => ?_⟩
  obtain ⟨hc, rfl⟩ := decode_ok_iff.1 h
  exact encode_commandOfOp w hc

/-- Settles O2: twelve closed instances of the decoder. -/
theorem commandWordsDecode : Obligations.CommandWordsDecode :=
  ⟨rfl, rfl, rfl, rfl, rfl, rfl, rfl, rfl, rfl, rfl, rfl, rfl⟩

/-- Settles O3: the two answers of `decode`. -/
theorem reservedCommandWordsRefused : Obligations.ReservedCommandWordsRefused := by
  intro w
  refine ⟨⟨decode_error w, fun h hc => ?_⟩, decode_ok w⟩
  exact nomatch h.symm.trans (decode_ok w hc)

namespace Machine

/-- Settles O4, by the laws of the register map. -/
theorem registerNumbersAreUnique : Obligations.RegisterNumbersAreUnique :=
  ⟨regOfNumber_regNumber, regNumber_of_some, regOfNumber_none⟩

/-- Settles O5: one check for each of the 256 values of STATUS. -/
theorem statusFieldPositions : Obligations.StatusFieldPositions := by
  rintro ⟨result, wrap, fault, fcause, busy⟩
  revert result wrap fault fcause busy
  decide

end Machine

end Sys2Proof
end

