-- ==== Sys2Proof/Proofs/HostAccess.lean ====
section
/-! SUPPORT. HOST's writes, reads and polls, and TSRC's samples, as steps (R22, R27, R34, R54, R55, R82). -/

namespace Sys2Proof.Machine

/-- An operand register takes its own width of the value (R54). -/
theorem regValue_writeReg_same {r : Reg} (hr : regAccess r = .readWrite) (v : AccessValue) (s : State) :
    (regValue r (writeReg r v s)).toNat = v.toNat % 2 ^ regWidth r := by
  obtain ⟨n, rfl⟩ | rfl | rfl := operand_of_readWrite hr
  · have hoctet : (s.req.set n (v.setWidth 8))[n] = v.setWidth 8 := Vector.getElem_set_self n.isLt
    simp only [regValue, writeReg, regWidth, hoctet, BitVec.toNat_setWidth]
    omega
  · simp only [regValue, writeReg, regWidth, BitVec.toNat_setWidth]
    omega
  · exact (Nat.mod_eq_of_lt v.isLt).symm

/-- A write to an operand register leaves every other register (R54). -/
theorem regValue_writeReg_other {r r' : Reg} (hr : regAccess r = .readWrite) (hne : r' ≠ r) (v : AccessValue) (s : State) :
    regValue r' (writeReg r v s) = regValue r' s := by
  obtain ⟨n, rfl⟩ | rfl | rfl := operand_of_readWrite hr
  · cases r' with
    | req m =>
      have hmn : n.val ≠ m.val := fun h => hne (congrArg Reg.req (Fin.ext h.symm))
      have hoctet : (s.req.set n (v.setWidth 8))[m] = s.req[m] := Vector.getElem_set_ne n.isLt m.isLt hmn
      exact congrArg (BitVec.setWidth 64) hoctet
    | reqLen | nowNtp | cmd | resp | respLen | status | ts => rfl
  · cases r' with
    | reqLen => exact absurd rfl hne
    | req | nowNtp | cmd | resp | respLen | status | ts => rfl
  · cases r' with
    | nowNtp => exact absurd rfl hne
    | req | reqLen | cmd | resp | respLen | status | ts => rfl

/-- A write to an operand register leaves the latch, the ports, the script and HOST's reads (R54, R55). -/
theorem writeReg_frame {r : Reg} (hr : regAccess r = .readWrite) (v : AccessValue) (s : State) :
    (writeReg r v s).latch = s.latch ∧ (writeReg r v s).clkSec = s.clkSec ∧ (writeReg r v s).clkNsec = s.clkNsec ∧
    (writeReg r v s).script = s.script ∧ (writeReg r v s).reads = s.reads := by
  obtain ⟨n, rfl⟩ | rfl | rfl := operand_of_readWrite hr <;> exact ⟨rfl, rfl, rfl, rfl, rfl⟩

/-- Removing the next event changes no register. -/
theorem regValue_withScript (r : Reg) (s : State) (es : List Event) : regValue r { s with script := es } = regValue r s := by
  cases r <;> rfl

/-- Settles O6, by what the write stores and what it leaves. -/
theorem operandWriteStoresOneRegister : Obligations.OperandWriteStoresOneRegister := by
  intro s r v es hr
  refine ⟨_, step_wr_reg r v s es, regValue_writeReg_same hr v _, fun r' hne => ?_, writeReg_frame hr v _⟩
  rw [regValue_writeReg_other hr hne, regValue_withScript]

/-- A write to a number that is no operand register's and not CMD's has no effect (R22). -/
theorem writeNumber_ignored {no : Nat} (hno : 0x33 ≤ no) (v : AccessValue) (s : State) : writeNumber no v s = s := by
  rcases writeNumber_cases no v s with ⟨n, hn, -⟩ | ⟨hn, -⟩ | ⟨hn, -⟩ | ⟨hn, -⟩ | h
  case inr.inr.inr.inr => exact h
  all_goals omega

/-- Settles O7: every number of the statement is 0x33 or above. -/
theorem readOnlyAndUnassignedWritesIgnored : Obligations.ReadOnlyAndUnassignedWritesIgnored := by
  intro s no v es hno
  rw [step_wr no v _ es rfl, writeNumber_ignored (by omega)]

/-- An unassigned number reads 0 (R22). -/
theorem readNumber_unassigned {no : Nat} (hno : (0x33 ≤ no ∧ no ≤ 0x3F) ∨ 0x73 ≤ no) (s : State) : readNumber no s = 0 := by
  simp only [readNumber, (regOfNumber_none no).2 hno]

/-- Settles O8: a read notes the value of the register that the number names. -/
theorem readReturnsRegisterWithoutSideEffect : Obligations.ReadReturnsRegisterWithoutSideEffect := by
  intro s no es
  have hvalue (r : Reg) (hr : no = regNumber r) : readNumber no { s with script := es } = regValue r s := by
    rw [hr, readNumber_regNumber, regValue_withScript]
  exact ⟨readNumber no { s with script := es }, step_rd no _ es rfl, fun n => hvalue (.req n), hvalue .reqLen, hvalue .nowNtp,
    hvalue .cmd, fun n => hvalue (.resp n), hvalue .respLen, hvalue .status, hvalue .ts, fun hno => readNumber_unassigned hno _⟩

/-- Settles O9, by the poll on each value of BUSY. -/
theorem waitPollsStatusUntilIdle : Obligations.WaitPollsStatusUntilIdle := by
  intro s es
  rw [step_wait _ es rfl]
  exact ⟨fun hb => congrArg Host.Outcome.next (pollStatus_idle { s with script := es } hb),
    fun hb => congrArg Host.Outcome.next (pollStatus_busy { s with script := es } hb)⟩

/-- Settles O10: TSRC's event sets the two ports. -/
theorem timeSourceDrivesPortsOnly : Obligations.TimeSourceDrivesPortsOnly :=
  fun _ sec nsec es => step_clk sec nsec _ es rfl

end Sys2Proof.Machine
end

