-- ==== Sys2Proof/Proofs/EngineTurn.lean ====
section
/-! SUPPORT. ENGINE's turn on a busy and on an idle block, after an issue and after a placed word (R36, R38, R189). -/

namespace Sys2Proof.Machine

/-- A word stands in the table's numbering as itself (R70). -/
theorem tableWord_toNat (c : Byte) : tableWord c.toNat = some c := by
  simp [tableWord, c.isLt]

/-- Placing a legal word issues it and makes ENGINE's turn the next event (R36; log entry 7). -/
theorem placeWord_legal {c : Byte} {i : Instr} (hc : decode c = .ok i) (s : State) :
    placeWord c.toNat s = { capture (c.extractLsb' 0 2) s with script := .engine :: s.script } := by
  simp only [placeWord, tableWord_toNat, hc]

/-- ENGINE's turn right after an issue completes the issued command (R36, R37, R38). -/
theorem step_engine_capture {c : Byte} {i : Instr} (hc : decode c = .ok i) (s : State) (es : List Event) :
    step { capture (c.extractLsb' 0 2) s with script := .engine :: es } =
      exec i { capture (c.extractLsb' 0 2) s with script := es } := by
  obtain ⟨-, hop⟩ := decode_ok_iff.1 hc
  rw [step_engine _ es rfl rfl]
  exact congrArg (exec · _) hop

/-- Settles O12: the turn on the latched command, and on the command that an issue or a placed word has just latched. -/
theorem stepRunsTheDecodedCommand : Obligations.StepRunsTheDecodedCommand := by
  refine ⟨fun s es hb => ?scripted, fun s hb hs => ?exhausted, fun s c i es hb hc => ?issued, fun s c i hc => ?placed⟩
  case scripted => exact step_engine { s with script := .engine :: es } es rfl hb
  case exhausted => exact (step_nil s hs).trans (engineTurn_busy s hb)
  case issued =>
    obtain ⟨hlegal, -⟩ := decode_ok_iff.1 hc
    refine ⟨capture (c.extractLsb' 0 2) { s with script := .engine :: es }, ?_, rfl, ?_⟩
    · rw [step_wr_cmd]
      exact congrArg Host.Outcome.next (issue_legal c { s with script := .engine :: es } hb hlegal)
    · exact step_engine_capture hc s es
  case placed =>
    rw [State.withFetchWord, placeWord_legal hc]
    exact step_engine_capture hc s s.script

/-- Settles O13: an idle block's turn of ENGINE passes, scripted or not. -/
theorem idleBlockKeepsItsState : Obligations.IdleBlockKeepsItsState := by
  intro s hb
  refine ⟨fun es => ?_, fun hs => (step_nil s hs).trans (engineTurn_idle s hb)⟩
  rw [step_cons _ .engine es rfl]
  exact engineTurn_idle { s with script := es } hb

end Sys2Proof.Machine
end

