-- ==== Sys2Proof/Proofs/Commands.lean ====
section
/-! SUPPORT. The outcomes of VAL, CONV, BLD and VB in the spec's own numbers (R73, R121 to R127, R130, R150, R160, R173). -/

namespace Sys2Proof.Machine

/-- The eight legal values of byte 0 (R73). -/
theorem headerAccepted_iff_mem : ∀ b : Byte,
    HeaderAccepted b ↔ b ∈ [0x0B#8, 0x13#8, 0x1B#8, 0x23#8, 0xCB#8, 0xD3#8, 0xDB#8, 0xE3#8] := by decide

/-- Settles O15: on a request of full length the verdict's code follows the header rules. -/
theorem eightHeaderBytesAccepted : Obligations.EightHeaderBytesAccepted := by
  intro s t hlen h
  have hresult : t.status.result = if HeaderAccepted s.latch.req[0] then 1#2 else 3#2 := by
    rw [exec_val, verdictCode_verdict, if_neg (Nat.not_lt.2 hlen)] at h
    cases h
    rfl
  rw [hresult, ← headerAccepted_iff_mem]
  split
  · next ha => exact ⟨⟨fun _ => ha, fun _ => rfl⟩, .inl rfl⟩
  · next ha => exact ⟨⟨fun h1 => absurd h1 (by decide), fun ha' => absurd ha' ha⟩, .inr rfl⟩

/-- Settles O17: R124 sends CONV to its faulting completion, which writes the fault record only. -/
theorem convFaultsOnNanosecondRange : Obligations.ConvFaultsOnNanosecondRange :=
  fun s hn => exec_conv_faults s hn

/-- WRAP after CONV on a legal sample (R123, R130). -/
theorem exec_conv_wrap {s t : State} (hn : s.latch.clkNsec.toNat < 1000000000) (h : exec .conv s = .next t) :
    t.status.wrap = decide (s.latch.clkSec.toInt + 2208988800 < 0 ∨ s.latch.clkSec.toInt + 2208988800 > 4294967295) := by
  rw [exec_conv_legal s hn, wrapOf_eq] at h
  cases h
  rfl

/-- The seconds half of TS after CONV on a legal sample (R121, R130). -/
theorem exec_conv_seconds {s t : State} (hn : s.latch.clkNsec.toNat < 1000000000) (h : exec .conv s = .next t) :
    t.ts.extractLsb' 32 32 = ntpSeconds s.latch.clkSec := by
  rw [exec_conv_ts hn h]
  unfold stampOf
  exact stamp_seconds _ _

/-- Settles O19: reduction modulo 2^32 commutes with the addition. -/
theorem secondsFromTheLowHalf : Obligations.SecondsFromTheLowHalf := by
  intro s t hn h
  rw [exec_conv_seconds hn h, ntpSeconds_low]

/-- Settles O20: the bounds of R123 moved by the epoch offset. -/
theorem wrapExactlyOutsideEraZero : Obligations.WrapExactlyOutsideEraZero := by
  intro s t hn h
  rw [exec_conv_wrap hn h, decide_eq_true_iff]
  omega

/-- Settles O21: the two formulas of CONV at the five seconds. -/
theorem eraBoundaries : Obligations.EraBoundaries := by
  intro s t hn h
  rw [exec_conv_wrap hn h, exec_conv_seconds hn h, ntpSeconds, secondsMath, ntpEpochOffset]
  refine ⟨fun hx => ?_, fun hx => ?_, fun hx => ?_, fun hx => ?_, fun hx => ?_⟩ <;> (rw [hx]; decide)

/-- Settles O23: a rejected request sends BLD to its faulting completion. -/
theorem bldFaultsOnRejectedRequest : Obligations.BldFaultsOnRejectedRequest :=
  fun s ha => exec_bld_rejected s ha

/-- Settles O24: the reply at the sample's stamp, with stamp and wrap bit by the spec's formulas. -/
theorem vbBuildsTheReply : Obligations.VbBuildsTheReply := by
  intro s ha hn
  refine ⟨replyOf s.latch (stampOf s.latch), ?_, ?_⟩
  · rw [← stampOf_eq]
    exact replyOf_spec s.latch (stampOf s.latch)
  · rw [exec_vb_accepted s ha hn, wrapOf_eq]
    rfl

/-- The RESULT code of a rejected request (R101, R171). -/
theorem verdictCode_rejected {l : Latch} (ha : ¬ RequestAccepted l) :
    verdictCode (verdict l) = if l.reqLen.toNat < 48 then 2#2 else 3#2 := by
  rw [verdictCode_verdict]
  split
  · rfl
  · next hlen => exact if_neg fun hheader => ha ⟨Nat.not_lt.1 hlen, hheader⟩

/-- Settles O25: the verdict's code on a rejected request. -/
theorem vbRejectsWithoutResponse : Obligations.VbRejectsWithoutResponse := by
  intro s ha
  rw [exec_vb_rejected s ha, vbRejects, verdictCode_rejected ha]
  rfl

/-- Settles O26: an accepted request with an illegal sample sends VB to its faulting completion. -/
theorem vbFaultsOnNanosecondRange : Obligations.VbFaultsOnNanosecondRange :=
  fun s ha hn => exec_vb_faults s ha hn

end Sys2Proof.Machine
end

