-- ==== Sys2Proof/Proofs/Reset.lean ====
section
/-! SUPPORT. The registers after power-on and after the reset input (R200, R201). -/

namespace Sys2Proof.Machine

/-- Settles O38, register by register. -/
theorem powerOnIsTheResetState : Obligations.PowerOnIsTheResetState := by
  intro r
  cases r with
  | req n | resp n => exact congrArg (BitVec.setWidth 64) (zeros_getElem n.val n.isLt)
  | reqLen | nowNtp | cmd | respLen | status | ts => rfl

/-- After the reset input every register is as after power-on (R200). -/
theorem regValue_applyReset (r : Reg) (s : State) : regValue r (applyReset s) = regValue r State.reset := by
  cases r <;> rfl

/-- STATUS reads 0x00 after reset (R200). -/
theorem toWord_reset : Status.reset.toWord = 0x00 := by decide

/-- Settles O37: the state of `applyReset`, which is idle. -/
theorem resetZeroesEveryRegister : Obligations.ResetZeroesEveryRegister := by
  intro s es
  refine ⟨applyReset { s with script := es }, step_reset _ es rfl, fun n => ?octets, rfl, rfl, rfl, rfl, toWord_reset, rfl, rfl,
    rfl, rfl, ?discarded, fun r => regValue_applyReset r _⟩
  case octets => exact ⟨zeros_getElem n.val n.isLt, zeros_getElem n.val n.isLt⟩
  case discarded => exact (idleBlockKeepsItsState (applyReset { s with script := es }) rfl).1

end Sys2Proof.Machine
end
